-- ==== Sys2Proof/Word.lean ====
section
/-! DEFINITION. The value types of the block: bytes, timestamps, the four-byte field (00_scope.md R8). -/

namespace Sys2Proof

/-- A byte: an unsigned 8-bit value (R8). -/
abbrev Byte := BitVec 8

/-- A capture timestamp: an opaque token that the block stores and copies and never computes on
(R26, R276; D4 lets a model make the type abstract; log entry 5). The wrapper has no arithmetic. -/
structure Timestamp where
  token : Nat
deriving DecidableEq, Repr, Inhabited

/-- Four bytes in arrival order, `b0` first: the checksum-or-value field of a packet (R53, R86). -/
structure Quad where
  b0 : Byte
  b1 : Byte
  b2 : Byte
  b3 : Byte
deriving DecidableEq, Repr, Inhabited

end Sys2Proof
end

