-- ==== Sys2Proof/Config.lean ====
section
/-! DEFINITION. What is fixed for one block: the constants of R6, the instantiation parameters of R7, and the values the
spec leaves unspecified (opaque constants: nothing can be proved of what they are). -/

namespace Sys2Proof.Config

/-- `DELIM` (R6). -/
abbrev delim : Byte := 0xC0
/-- `ESC` (R6). -/
abbrev esc : Byte := 0xDB
/-- `ESC_END` (R6). -/
abbrev escEnd : Byte := 0xDC
/-- `ESC_ESC` (R6). -/
abbrev escEsc : Byte := 0xDD
/-- `MIN_RAW` (R6): the smallest raw count that is decoded. -/
abbrev minRaw : Nat := 8
/-- `HDR_LEN` (R6): the bytes of the packet header, a constant apart from `MIN_RAW` (90_conflicts.md C10). -/
abbrev hdrLen : Nat := 8
/-- `DIR_REQ` (R6). -/
abbrev dirReq : Byte := 0x00
/-- `DIR_RESP` (R6). -/
abbrev dirResp : Byte := 0x01
/-- `CK_OFF` (R6). -/
abbrev ckOff : Nat := 16
/-- `CK_MIN_PLEN` (R6). -/
abbrev ckMinPlen : Nat := 16
/-- `CK_SEED` (R6). -/
abbrev ckSeed : Byte := 0xEF
/-- `PLACEHOLDER` (R6). -/
abbrev placeholder : Quad := ⟨0x00, 0x00, 0x00, 0x00⟩
/-- `CMD_SYNC` (R6). -/
abbrev cmdSync : Byte := 0x08
/-- `CMD_CK_A` (R6). -/
abbrev cmdCkA : Byte := 0x03

/-- The parameters fixed when a block is instantiated (R7, R30, R31). `TS_W` is not among them: a timestamp is an abstract
token (log entry 5). -/
structure Params where
  /-- `BUF_CAP`; `none` is unbounded. -/
  bufCap : Option Nat
  /-- `CKSUM_SET`. -/
  cksumSet : List Byte
  /-- `CMD_READ_REG`. -/
  cmdReadReg : Byte
  /-- `CMD_TABLE`: identifier and name. -/
  cmdTable : List (Byte × String)
deriving DecidableEq, Repr

/-- `TS0` after reset is unspecified (R33, R300, D10): a value that no proof can rely on (log entry 4). -/
opaque ts0AtReset : Timestamp

/-! The fixed words of the host's text line that the source does not give (44_rendering.md, 91_not_in_source.md N12, N20;
log entries 15, 21 and 22). -/

/-- The six parts of the line (R241). -/
inductive LinePart
  | packetType
  | name
  | size
  | field
  | payload
  | lengthNote
deriving DecidableEq, Repr

/-- What stands between two neighbouring parts: the separator of that gap and any fixed words round it, which "are not in the
source" (R241). `none` is the beginning or the end of the line. Each gap is free by itself: also what the line has in the
place of a part that is absent, as the payload is when it is empty (R249). DESIGN CHOICE (log entry 21): the text of a gap
depends on its two neighbours and on nothing else. -/
opaque gap : Option LinePart → Option LinePart → String
/-- The two words for the packet type; the argument is `is_resp` (R242). -/
opaque typeWord : Bool → String
/-- The checksum annotation, naming the computed value (R248); anything that sets it off from the field description is part of
it. -/
opaque checksumAnnotation : Byte → String
/-- The length annotation (R250). -/
opaque lengthAnnotation : String
/-- A payload byte carries the prefix `0x` (R249: open, N20). -/
opaque payloadPrefixed : Bool
/-- The hexadecimal digits of a payload byte are upper case (R249: open, N20). -/
opaque payloadUpper : Bool
/-- The error string of a bad direction byte (R251). -/
opaque badDirectionText : String
/-- The string of a decode failure (R251). -/
opaque decodeFaultText : String

end Sys2Proof.Config
end

