-- ==== Sys2Proof/Syntax.lean ====
section
/-! DEFINITION. The operations of the block: one constructor for each row of spec/opcode_table.json, and the context that
takes part in the decode of a byte (30_encoding.md R80 to R92). -/

namespace Sys2Proof

/-- The framer state `st` (R21). -/
inductive FramerState
  | idle
  | inFrame
deriving DecidableEq, Repr

/-- What decides, beside the byte, which operation is meant (R80): the level and its context. At the stream level the two
timestamps that travel with the byte (R81) are part of the context. -/
inductive Context
  /-- Format SB: the framer state, `LEN`, `ts_s`, `ts_e`. -/
  | sb (st : FramerState) (len : Nat) (tsS tsE : Timestamp)
  /-- Format RB: `ep`. -/
  | rb (ep : Bool)
  /-- Format PK, byte 0. -/
  | dir
  /-- Format PK, byte 1. -/
  | cmd
deriving DecidableEq, Repr

/-- The operations, in the table's order. An operand is what the operation's rule lists as one and its byte does not fix:
the byte of a catch-all row, and the timestamp that `FR.OPEN` and `FR.CLOSE_EMIT` use. -/
inductive Instr
  -- level 1, format SB (40_framer.md)
  | frOpen (tsS : Timestamp)
  | frCloseDiscard
  | frCloseEmit (tsE : Timestamp)
  | frAppend (b : Byte)
  | frIgnore (b : Byte)
  -- level 2, format RB (41_unescape.md)
  | ueEnd
  | ueEsc
  | ueDrop (x : Byte)
  | ueMark
  | ueLit (x : Byte)
  -- level 3a, format PK byte 0 (42_packet_validator.md)
  | dirReq
  | dirResp
  | dirInvalid (d : Byte)
  -- level 3b, format PK byte 1 (43_checksum_dispatch.md)
  | flashBegin
  | flashData
  | flashEnd
  | memBegin
  | memEnd
  | memData
  | sync
  | writeReg
  | readReg
  | spiSetParams
  | spiAttach
  | readFlashSlow
  | changeBaudrate
  | flashDeflBegin
  | flashDeflData
  | flashDeflEnd
  | spiFlashMd5
  | getSecurityInfo
  | eraseFlash
  | eraseRegion
  | readFlash
  | runUserCode
  | cmdUnknown (c : Byte)
deriving DecidableEq, Repr

end Sys2Proof
end

