-- ==== Sys2Proof/WellFormed.lean ====
section
/-! DEFINITION. The checks on an operation's operands, on the context it is selected in, and on the parameters. -/

namespace Sys2Proof

/-- The 22 identifiers that have a row of their own in the opcode table (R90). -/
def commandIds : List Byte :=
  [0x02, 0x03, 0x04, 0x05, 0x06, 0x07, 0x08, 0x09, 0x0A, 0x0B, 0x0D] ++
  [0x0E, 0x0F, 0x10, 0x11, 0x12, 0x13, 0x14, 0xD0, 0xD1, 0xD2, 0xD3]

/-- The operand is one that the operation's encoding admits: a catch-all row takes the bytes that no row before it takes
(R82, R83, R88, R90). -/
def Instr.wellFormed : Instr → Bool
  | .frAppend b => b != Config.delim
  | .frIgnore b => b != Config.delim
  | .ueDrop x => x != Config.escEnd && x != Config.escEsc
  | .ueLit x => x != Config.esc
  | .dirInvalid d => d != Config.dirReq && d != Config.dirResp
  | .cmdUnknown c => !commandIds.contains c
  | .frOpen _ => true
  | .frCloseDiscard => true
  | .frCloseEmit _ => true
  | .ueEnd => true
  | .ueEsc => true
  | .ueMark => true
  | .dirReq => true
  | .dirResp => true
  | .flashBegin => true
  | .flashData => true
  | .flashEnd => true
  | .memBegin => true
  | .memEnd => true
  | .memData => true
  | .sync => true
  | .writeReg => true
  | .readReg => true
  | .spiSetParams => true
  | .spiAttach => true
  | .readFlashSlow => true
  | .changeBaudrate => true
  | .flashDeflBegin => true
  | .flashDeflData => true
  | .flashDeflEnd => true
  | .spiFlashMd5 => true
  | .getSecurityInfo => true
  | .eraseFlash => true
  | .eraseRegion => true
  | .readFlash => true
  | .runUserCode => true

/-- A stream context with this framer state, in which `LEN` passes the test. -/
def Context.isStream (c : Context) (st : FramerState) (lenOk : Nat → Bool) : Bool :=
  match c with
  | .sb st' len _ _ => decide (st' = st) && lenOk len
  | .rb _ => false
  | .dir => false
  | .cmd => false

/-- The `ts_s` of a stream context is this token. -/
def Context.startsAt (c : Context) (t : Timestamp) : Bool :=
  match c with
  | .sb _ _ tsS _ => decide (tsS = t)
  | .rb _ => false
  | .dir => false
  | .cmd => false

/-- The `ts_e` of a stream context is this token. -/
def Context.endsAt (c : Context) (t : Timestamp) : Bool :=
  match c with
  | .sb _ _ _ tsE => decide (tsE = t)
  | .rb _ => false
  | .dir => false
  | .cmd => false

/-- The context conditions of the operation's row (R82, R83, R88, R90): those under which its byte selects it. -/
def Instr.admits : Instr → Context → Bool
  | .frOpen t, c => c.isStream .idle (fun _ => true) && c.startsAt t
  | .frCloseDiscard, c => c.isStream .inFrame (fun len => decide (len < Config.minRaw))
  | .frCloseEmit t, c => c.isStream .inFrame (fun len => decide (Config.minRaw ≤ len)) && c.endsAt t
  | .frAppend _, c => c.isStream .inFrame (fun _ => true)
  | .frIgnore _, c => c.isStream .idle (fun _ => true)
  | .ueEnd, c => c == .rb true
  | .ueEsc, c => c == .rb true
  | .ueDrop _, c => c == .rb true
  | .ueMark, c => c == .rb false
  | .ueLit _, c => c == .rb false
  | .dirReq, c => c == .dir
  | .dirResp, c => c == .dir
  | .dirInvalid _, c => c == .dir
  | .flashBegin, c => c == .cmd
  | .flashData, c => c == .cmd
  | .flashEnd, c => c == .cmd
  | .memBegin, c => c == .cmd
  | .memEnd, c => c == .cmd
  | .memData, c => c == .cmd
  | .sync, c => c == .cmd
  | .writeReg, c => c == .cmd
  | .readReg, c => c == .cmd
  | .spiSetParams, c => c == .cmd
  | .spiAttach, c => c == .cmd
  | .readFlashSlow, c => c == .cmd
  | .changeBaudrate, c => c == .cmd
  | .flashDeflBegin, c => c == .cmd
  | .flashDeflData, c => c == .cmd
  | .flashDeflEnd, c => c == .cmd
  | .spiFlashMd5, c => c == .cmd
  | .getSecurityInfo, c => c == .cmd
  | .eraseFlash, c => c == .cmd
  | .eraseRegion, c => c == .cmd
  | .readFlash, c => c == .cmd
  | .runUserCode, c => c == .cmd
  | .cmdUnknown _, c => c == .cmd

/-- The constraints that every instantiation meets (R7): `0x03` is in `CKSUM_SET`, which has exactly three members and not
`0x08`; `CMD_TABLE` is a map, and maps `0x08` to `SYNC`. -/
def Config.Params.wellFormed (p : Config.Params) : Bool :=
  p.cksumSet.contains Config.cmdCkA && decide (p.cksumSet.length = 3) && decide p.cksumSet.Nodup &&
  !p.cksumSet.contains Config.cmdSync && decide (p.cmdTable.map Prod.fst).Nodup &&
  decide (p.cmdTable.lookup Config.cmdSync = some "SYNC")

end Sys2Proof
end

