-- ==== Sys2Proof/Machine/Parameters.lean ====
section
/-! DEFINITION. The default instantiation (R7, R90) and the three attributes of a command identifier (R89). -/

namespace Sys2Proof.Machine

open Sys2Proof.Config (Params)

/-- The 22 default entries of `CMD_TABLE` (R90, D20). -/
def defaultCmdTable : List (Byte × String) :=
  [(0x02, "FLASH_BEGIN"), (0x03, "FLASH_DATA"), (0x04, "FLASH_END"), (0x05, "MEM_BEGIN"),
   (0x06, "MEM_END"), (0x07, "MEM_DATA"), (0x08, "SYNC"), (0x09, "WRITE_REG")] ++
  [(0x0A, "READ_REG"), (0x0B, "SPI_SET_PARAMS"), (0x0D, "SPI_ATTACH"), (0x0E, "READ_FLASH_SLOW"),
   (0x0F, "CHANGE_BAUDRATE"), (0x10, "FLASH_DEFL_BEGIN"), (0x11, "FLASH_DEFL_DATA")] ++
  [(0x12, "FLASH_DEFL_END"), (0x13, "SPI_FLASH_MD5"), (0x14, "GET_SECURITY_INFO"),
   (0xD0, "ERASE_FLASH"), (0xD1, "ERASE_REGION"), (0xD2, "READ_FLASH"), (0xD3, "RUN_USER_CODE")]

/-- The default instantiation (R7): `BUF_CAP` unbounded, `CKSUM_SET = {0x03, 0x07, 0x11}`, `CMD_READ_REG = 0x0A`. -/
def defaultParams : Params where
  bufCap := none
  cksumSet := [0x03, 0x07, 0x11]
  cmdReadReg := 0x0A
  cmdTable := defaultCmdTable

/-- `ck(cmd)` (R89): the command's checksum is verified. -/
def commandCk (p : Params) (c : Byte) : Bool := p.cksumSet.contains c

/-- `rr(cmd)` (R89): the register-read command. -/
def commandRr (p : Params) (c : Byte) : Bool := c == p.cmdReadReg

/-- `CMD_TABLE(cmd)` (R168, R243). -/
def commandName (p : Params) (c : Byte) : Option String := p.cmdTable.lookup c

/-- `known(cmd)` (R89): `CMD_TABLE` has an entry for `cmd`. -/
def commandKnown (p : Params) (c : Byte) : Bool := (commandName p c).isSome

end Sys2Proof.Machine
end

