-- ==== Sys2Proof/Decode.lean ====
section
/-! DEFINITION. The decoder, the encoder, and the opcode table with its first-match reading (30_encoding.md). -/

namespace Sys2Proof

open Sys2Proof.Config (Params)

/-- Level 1, format SB (R82): a stream byte with its framer state, `LEN` and two timestamps. -/
def decodeStream (st : FramerState) (len : Nat) (tsS tsE : Timestamp) (b : Byte) : Instr :=
  if b = Config.delim then
    match st with
    | .idle => .frOpen tsS
    | .inFrame => if len < Config.minRaw then .frCloseDiscard else .frCloseEmit tsE
  else
    match st with
    | .inFrame => .frAppend b
    | .idle => .frIgnore b

/-- Level 2, format RB (R83): the test of `ep` comes first. -/
def decodeRaw (ep : Bool) (x : Byte) : Instr :=
  if ep then
    if x = Config.escEnd then .ueEnd
    else if x = Config.escEsc then .ueEsc
    else .ueDrop x
  else if x = Config.esc then .ueMark
  else .ueLit x

/-- Level 3a, the direction byte (R88). -/
def decodeDirection (d : Byte) : Instr :=
  if d = Config.dirReq then .dirReq
  else if d = Config.dirResp then .dirResp
  else .dirInvalid d

/-- The identifiers with a row of their own (R90). -/
def commandRows : List (Byte × Instr) :=
  [(0x02, .flashBegin), (0x03, .flashData), (0x04, .flashEnd), (0x05, .memBegin), (0x06, .memEnd), (0x07, .memData),
   (0x08, .sync), (0x09, .writeReg), (0x0A, .readReg), (0x0B, .spiSetParams), (0x0D, .spiAttach)] ++
  [(0x0E, .readFlashSlow), (0x0F, .changeBaudrate), (0x10, .flashDeflBegin), (0x11, .flashDeflData),
   (0x12, .flashDeflEnd), (0x13, .spiFlashMd5), (0x14, .getSecurityInfo), (0xD0, .eraseFlash),
   (0xD1, .eraseRegion), (0xD2, .readFlash), (0xD3, .runUserCode)]

/-- Level 3b, the command identifier (R90): selected by its number alone (DESIGN CHOICE, log entry 9). -/
def decodeCommand (c : Byte) : Instr :=
  (commandRows.lookup c).getD (.cmdUnknown c)

/-- The decoder: total, since every byte has a meaning at every level (R80, R91). -/
def decode (c : Context) (b : Byte) : Instr :=
  match c with
  | .sb st len tsS tsE => decodeStream st len tsS tsE b
  | .rb ep => decodeRaw ep b
  | .dir => decodeDirection b
  | .cmd => decodeCommand b

/-- Why a byte sequence does not begin with an operation. -/
inductive DecodeRejection
  /-- There is no byte: every operation is one byte long (R81, R83, R88, R89). -/
  | noByte
deriving DecidableEq, Repr

/-- The operation at the head of a byte sequence, and the bytes after it. -/
def decodeBytes (c : Context) (bs : List Byte) : Except DecodeRejection (Instr × List Byte) :=
  match bs with
  | [] => .error .noByte
  | b :: rest => .ok (decode c b, rest)

/-- The byte of an operation (R82, R83, R88, R90). The timestamps of a stream byte travel beside it. -/
def encodeByte : Instr → Byte
  | .frOpen _ => 0xC0
  | .frCloseDiscard => 0xC0
  | .frCloseEmit _ => 0xC0
  | .frAppend b => b
  | .frIgnore b => b
  | .ueEnd => 0xDC
  | .ueEsc => 0xDD
  | .ueDrop x => x
  | .ueMark => 0xDB
  | .ueLit x => x
  | .dirReq => 0x00
  | .dirResp => 0x01
  | .dirInvalid d => d
  | .flashBegin => 0x02
  | .flashData => 0x03
  | .flashEnd => 0x04
  | .memBegin => 0x05
  | .memEnd => 0x06
  | .memData => 0x07
  | .sync => 0x08
  | .writeReg => 0x09
  | .readReg => 0x0A
  | .spiSetParams => 0x0B
  | .spiAttach => 0x0D
  | .readFlashSlow => 0x0E
  | .changeBaudrate => 0x0F
  | .flashDeflBegin => 0x10
  | .flashDeflData => 0x11
  | .flashDeflEnd => 0x12
  | .spiFlashMd5 => 0x13
  | .getSecurityInfo => 0x14
  | .eraseFlash => 0xD0
  | .eraseRegion => 0xD1
  | .readFlash => 0xD2
  | .runUserCode => 0xD3
  | .cmdUnknown c => c

/-- The encoder: every operation is one byte. -/
def encode (i : Instr) : List Byte := [encodeByte i]

/-! The sender's side (R94): not operations of the block. -/

/-- `esc` (R94). -/
def escape : List Byte → List Byte
  | [] => []
  | x :: r =>
    if x = Config.delim then Config.esc :: Config.escEnd :: escape r
    else if x = Config.esc then Config.esc :: Config.escEsc :: escape r
    else x :: escape r

/-- `frame` (R94, R96). -/
def frameBytes (x : List Byte) : List Byte := [Config.delim] ++ escape x ++ [Config.delim]

/-- `packet` (R94): a header whose declared size is the payload's length, and the payload. -/
def packetBytes (dir cmd : Byte) (fld : Quad) (payload : List Byte) : List Byte :=
  [dir, cmd, BitVec.ofNat 8 payload.length, BitVec.ofNat 8 (payload.length / 256)] ++
  [fld.b0, fld.b1, fld.b2, fld.b3] ++ payload

/-! The opcode table, row by row, and its reading (R95). `decode` above is written from the prose rules R82, R83, R88, R90;
this one from spec/opcode_table.json; that they agree is a statement. -/

/-- The four formats of the table (R95). -/
inductive Format
  | sb
  | rb
  | pkDir
  | pkCmd
deriving DecidableEq, Repr

/-- The two tests on `LEN` of the table's rows (R82). -/
inductive LenTest
  | below8
  | atLeast8
deriving DecidableEq, Repr

/-- One row: the match and mask, the context conditions the row gives, and the operation (R95). -/
structure TableRow where
  format : Format
  pattern : Byte
  mask : Byte
  st : Option FramerState := none
  len : Option LenTest := none
  ep : Option Bool := none
  ck : Option Bool := none
  rr : Option Bool := none
  known : Option Bool := none
  op : Byte → Timestamp → Timestamp → Instr

/-- A condition that a row does not give holds; one it gives asks for that value. -/
def meets {α : Type} [DecidableEq α] (wanted : Option α) (got : α) : Bool :=
  match wanted with
  | none => true
  | some v => decide (v = got)

/-- The row's test on `LEN`. -/
def meetsLen (wanted : Option LenTest) (len : Nat) : Bool :=
  match wanted with
  | none => true
  | some .below8 => decide (len < 8)
  | some .atLeast8 => decide (8 ≤ len)

/-- `v and mask = match`, and every context condition holds (R95). -/
def rowHolds (p : Params) (c : Context) (v : Byte) (r : TableRow) : Bool :=
  decide (v &&& r.mask = r.pattern) &&
  match c with
  | .sb st len _ _ => decide (r.format = .sb) && meets r.st st && meetsLen r.len len
  | .rb ep => decide (r.format = .rb) && meets r.ep ep
  | .dir => decide (r.format = .pkDir)
  | .cmd => decide (r.format = .pkCmd) && meets r.ck (Machine.commandCk p v) && meets r.rr (Machine.commandRr p v) &&
      meets r.known (Machine.commandKnown p v)

/-- A row of format `PK.cmd` with a fixed identifier. -/
def commandRow (c : Byte) (ck rr : Bool) (i : Instr) : TableRow :=
  { format := .pkCmd, pattern := c, mask := 0xFF, ck := some ck, rr := some rr, known := some true, op := fun _ _ _ => i }

/-- spec/opcode_table.json, formats `SB`, `RB` and `PK.dir`, in ascending priority within a format. -/
def tableUpper : List TableRow :=
  [{ format := .sb, pattern := 0xC0, mask := 0xFF, st := some .idle, op := fun _ tsS _ => .frOpen tsS },
   { format := .sb, pattern := 0xC0, mask := 0xFF, st := some .inFrame, len := some .below8,
     op := fun _ _ _ => .frCloseDiscard },
   { format := .sb, pattern := 0xC0, mask := 0xFF, st := some .inFrame, len := some .atLeast8,
     op := fun _ _ tsE => .frCloseEmit tsE },
   { format := .sb, pattern := 0x00, mask := 0x00, st := some .inFrame, op := fun b _ _ => .frAppend b },
   { format := .sb, pattern := 0x00, mask := 0x00, st := some .idle, op := fun b _ _ => .frIgnore b }] ++
  [{ format := .rb, pattern := 0xDC, mask := 0xFF, ep := some true, op := fun _ _ _ => .ueEnd },
   { format := .rb, pattern := 0xDD, mask := 0xFF, ep := some true, op := fun _ _ _ => .ueEsc },
   { format := .rb, pattern := 0x00, mask := 0x00, ep := some true, op := fun x _ _ => .ueDrop x },
   { format := .rb, pattern := 0xDB, mask := 0xFF, ep := some false, op := fun _ _ _ => .ueMark },
   { format := .rb, pattern := 0x00, mask := 0x00, ep := some false, op := fun x _ _ => .ueLit x }] ++
  [{ format := .pkDir, pattern := 0x00, mask := 0xFF, op := fun _ _ _ => .dirReq },
   { format := .pkDir, pattern := 0x01, mask := 0xFF, op := fun _ _ _ => .dirResp },
   { format := .pkDir, pattern := 0x00, mask := 0x00, op := fun d _ _ => .dirInvalid d }]

/-- spec/opcode_table.json, format `PK.cmd`, in ascending priority. -/
def tableCommands : List TableRow :=
  [commandRow 0x02 false false .flashBegin, commandRow 0x03 true false .flashData,
   commandRow 0x04 false false .flashEnd, commandRow 0x05 false false .memBegin,
   commandRow 0x06 false false .memEnd, commandRow 0x07 true false .memData,
   commandRow 0x08 false false .sync, commandRow 0x09 false false .writeReg] ++
  [commandRow 0x0A false true .readReg, commandRow 0x0B false false .spiSetParams,
   commandRow 0x0D false false .spiAttach, commandRow 0x0E false false .readFlashSlow,
   commandRow 0x0F false false .changeBaudrate, commandRow 0x10 false false .flashDeflBegin,
   commandRow 0x11 true false .flashDeflData, commandRow 0x12 false false .flashDeflEnd] ++
  [commandRow 0x13 false false .spiFlashMd5, commandRow 0x14 false false .getSecurityInfo,
   commandRow 0xD0 false false .eraseFlash, commandRow 0xD1 false false .eraseRegion,
   commandRow 0xD2 false false .readFlash, commandRow 0xD3 false false .runUserCode,
   { format := .pkCmd, pattern := 0x00, mask := 0x00, ck := some false, rr := some false, known := some false,
     op := fun c _ _ => .cmdUnknown c }]

/-- The table's own decoder (R95): the first row that holds. -/
def tableDecode (p : Params) (c : Context) (v : Byte) : Option Instr :=
  ((tableUpper ++ tableCommands).find? (rowHolds p c v)).map fun r =>
    match c with
    | .sb _ _ tsS tsE => r.op v tsS tsE
    | .rb _ => r.op v ⟨0⟩ ⟨0⟩
    | .dir => r.op v ⟨0⟩ ⟨0⟩
    | .cmd => r.op v ⟨0⟩ ⟨0⟩

/-! The opcode table's numbering of an operation's bits: one byte, with no bits for its level. -/

/-- The level and context at which a word of the table is read (DESIGN CHOICE, log entry 8): that of the first row of
the table that fixes this value; a word the table gives no bits is a stream byte after reset. Timestamps are zero. -/
def tableContext (nbits : Nat) (b : Byte) : Context :=
  if nbits = 0 ∨ b = Config.delim then .sb .idle 0 ⟨0⟩ ⟨0⟩
  else if b = Config.escEnd ∨ b = Config.escEsc then .rb true
  else if b = Config.esc then .rb false
  else if b = Config.dirReq ∨ b = Config.dirResp then .dir
  else .cmd

/-- The operation whose bits are `w`: its one byte, given to the decoder. There is no operation of more than 8 bits. -/
def decodeTableWord (nbits w : Nat) : Option Instr :=
  if 8 < nbits then none
  else
    match decodeBytes (tableContext nbits (BitVec.ofNat 8 w)) [BitVec.ofNat 8 w] with
    | .ok (i, _) => some i
    | .error _ => none

end Sys2Proof
end

