-- ==== Sys2Proof/Machine/State.lean ====
section
/-! DEFINITION. The state of the block, its output record, and how a step can stop (10_state.md, 30_encoding.md R92). -/

namespace Sys2Proof.Machine

open Sys2Proof.Config (Params)

/-- A byte-indexed space (R50): index `k` holds the `k`-th byte, in arrival order (R52). Indices are natural numbers; the
list is its own canonical form (log entry 14). -/
abbrev Memory := List Byte

/-- The record's `kind` (R92); there is no fourth (U12). -/
inductive Kind
  | packet
  | badDirection
  | decodeFault
deriving DecidableEq, Repr

/-- The record's `fld_sel` (R92); there is no fourth (U12). -/
inductive FldSel
  | checksum
  | value
  | placeholder
deriving DecidableEq, Repr

/-- The structured fields of a record of kind `PACKET` (R92). `plen` is the length of `payload`. -/
structure Packet where
  isResp : Bool
  cmd : Byte
  cmdKnown : Bool
  size : BitVec 16
  fld : Quad
  fldSel : FldSel
  fldOut : Quad
  payload : Memory
  lenMismatch : Bool
  ckChecked : Bool
  ckMismatch : Bool
  ckCalc : Byte
deriving DecidableEq, Repr

/-- What a decode gives (R160). The structured fields exist only for a packet (R92, U8). -/
inductive Body
  | packet (p : Packet)
  | badDirection
  | decodeFault
deriving DecidableEq, Repr

/-- The output record (R92). -/
structure Record where
  tStart : Timestamp
  tEnd : Timestamp
  body : Body
deriving DecidableEq, Repr

/-- What the host does between two steps (R18, R278): feed one transaction, or apply reset. -/
inductive HostEvent
  | feed (b : Byte) (tsS tsE : Timestamp)
  | reset
deriving DecidableEq, Repr

/-- Where the decode of a closing frame stands (log entry 7). -/
inductive Phase
  /-- No decode in progress: the next unit is a stream byte. -/
  | rest
  /-- The unescape scan: the next unit is `BUF[i]`. -/
  | scan
  /-- The header is parsed: the next unit is the direction byte. -/
  | dir
  /-- The direction is known: the next unit is the command identifier. -/
  | cmd
  /-- The outcome is known: the record is to be emitted and the frame closed. -/
  | done
deriving DecidableEq, Repr

/-- The values that live inside one step (R28), with the flags of R29 and the record fields that the operations of levels
2 and 3 write. Between steps they are `Work.rest`. -/
structure Work where
  phase : Phase
  /-- `ts_e` of the closing delimiter. -/
  tEnd : Timestamp
  /-- `ep`, the escape-pending flag. -/
  ep : Bool
  /-- `i`, the scan index into `BUF`. -/
  pos : Nat
  /-- `out`, in the end `U`. -/
  u : Memory
  dir : Byte
  cmd : Byte
  size : BitVec 16
  fld : Quad
  payload : Memory
  isResp : Bool
  fldSel : FldSel
  fldOut : Quad
  lenMismatch : Bool
  /-- `acc`, the checksum accumulator. -/
  acc : Byte
  ckChecked : Bool
  ckMismatch : Bool
  ckCalc : Byte
  cmdKnown : Bool
  kind : Kind
deriving DecidableEq, Repr

/-- The initial values of R28: `ep = 0`, `i = 0`, `out = []`, `acc = 0xEF`; the others are zero until written (log entry 7). -/
def Work.rest : Work where
  phase := .rest
  tEnd := ⟨0⟩
  ep := false
  pos := 0
  u := []
  dir := 0
  cmd := 0
  size := 0
  fld := ⟨0, 0, 0, 0⟩
  payload := []
  isResp := false
  fldSel := .checksum
  fldOut := ⟨0, 0, 0, 0⟩
  lenMismatch := false
  acc := Config.ckSeed
  ckChecked := false
  ckMismatch := false
  ckCalc := 0
  cmdKnown := false
  kind := .packet

/-- The state. `st`, `buf` and `ts0` are the block's whole architectural state (R20); `work` holds what lives inside one
step (R28); `params` is fixed at instantiation (R7, R30, R31; log entry 3); `input` and `out` are the model's own: what the host is
still to feed, and the record of the last step (log entries 1 and 6). -/
structure State where
  params : Params
  /-- `st` (R21). -/
  st : FramerState
  /-- `BUF` (R24); `LEN` is its length (R25). -/
  buf : Memory
  /-- `TS0` (R26). -/
  ts0 : Timestamp
  work : Work
  input : List HostEvent
  out : Option Record
deriving DecidableEq, Repr

/-- The faults: none. "Fault is never an outcome of the block itself" (R10, R271); a step of the model cannot answer one. -/
inductive Fault
deriving DecidableEq, Repr

/-- The refusals. -/
inductive Refusal
  /-- Raised by an arm of exec whose instruction has no meaning yet; safe: nothing is claimed of it. -/
  | notModelled (mnemonic : String)
  /-- Raised by `FR.APPEND` when `BUF_CAP` is finite and `LEN = BUF_CAP`: "the spec gives it no meaning" (R124, U9, D5).
  Safe: a stream with an over-long frame has no run. -/
  | bufferFull
deriving DecidableEq, Repr

/-- The outcome of an operation of this block. -/
abbrev Result := Host.Outcome State Fault Refusal

/-- The block after reset (R33, R300), for an instantiation: `st = Idle`, `BUF = []`, `TS0` unspecified (log entry 4). -/
def State.resetWith (p : Params) : State where
  params := p
  st := .idle
  buf := []
  ts0 := Config.ts0AtReset
  work := Work.rest
  input := []
  out := none

/-- The block after reset, in the default instantiation (R7, R33). -/
def State.reset : State := State.resetWith defaultParams

end Sys2Proof.Machine
end

