-- ==== Sys2Proof/Machine/Operands.lean ====
section
/-! DEFINITION. Reading bytes and assembling the fields of the unescaped frame (20_memory.md, 30_encoding.md R86, R87). -/

namespace Sys2Proof.Machine

/-- One byte of a space; `none` outside its index range (R50). -/
def readByte (m : Memory) (a : Nat) : Option Byte := m[a]?

/-- `MemRead(a, n)` (R55): `n` bytes as one unsigned little-endian value; defined only when all of them are there. -/
def memRead (m : Memory) (a : Nat) : Nat → Option Nat
  | 0 => some 0
  | n + 1 =>
    match readByte m a, memRead m (a + 1) n with
    | some b, some v => some (b.toNat + 256 * v)
    | _, _ => none

/-- `fld32` (R87): the four bytes as one little-endian 32-bit value. -/
def quadWord (q : Quad) : BitVec 32 := q.b3 ++ q.b2 ++ q.b1 ++ q.b0

/-- The header fields and the payload of an unescaped frame (R162). -/
structure Header where
  dir : Byte
  cmd : Byte
  size : BitVec 16
  fld : Quad
  payload : Memory
deriving DecidableEq, Repr

/-- `PV.HEADER` (R162, R86): the fields at their offsets, `P` from offset 8 (R167). `none` when a header byte is not there,
which is when `|U| < 8` (R161). -/
def parseHeader (u : Memory) : Option Header := do
  let dir ← memRead u 0 1
  let cmd ← memRead u 1 1
  let size ← memRead u 2 2
  let b0 ← readByte u 4
  let b1 ← readByte u 5
  let b2 ← readByte u 6
  let b3 ← readByte u 7
  some { dir := BitVec.ofNat 8 dir, cmd := BitVec.ofNat 8 cmd, size := BitVec.ofNat 16 size
         fld := ⟨b0, b1, b2, b3⟩, payload := u.drop Config.hdrLen }

/-- The index at which `FR.APPEND` stores: `LEN` (R56). -/
def appendAddress (s : State) : Nat := s.buf.length

/-- `plen` (R28, R92). -/
def Packet.plen (p : Packet) : Nat := p.payload.length

/-- The record's `kind` (R92). -/
def Body.kind : Body → Kind
  | .packet _ => .packet
  | .badDirection => .badDirection
  | .decodeFault => .decodeFault

/-- The record's `dir_err` (R92): 1 exactly when `kind = BAD_DIRECTION`. -/
def Body.dirErr (b : Body) : Bool := b.kind == .badDirection

/-- The two-bit code of `kind` (R92). -/
def Kind.code : Kind → BitVec 2
  | .packet => 0
  | .badDirection => 1
  | .decodeFault => 2

/-- The two-bit code of `fld_sel` (R92). -/
def FldSel.code : FldSel → BitVec 2
  | .checksum => 0
  | .value => 1
  | .placeholder => 2

/-- The one-bit code of `st` (R21, D8). -/
def framerCode : FramerState → BitVec 1
  | .idle => 0
  | .inFrame => 1

end Sys2Proof.Machine
end

