-- ==== Sys2Proof/Machine/Flags.lean ====
section
/-! DEFINITION. The diagnostics of a packet: the length check and the checksum (42_packet_validator.md R166,
43_checksum_dispatch.md R190 to R194). -/

namespace Sys2Proof.Machine

open Sys2Proof.Config (Params)

/-- `PV.LEN` (R166): `plen != size`, compared as natural numbers (D25). -/
def lengthMismatch (size : BitVec 16) (plen : Nat) : Bool := plen != size.toNat

/-- `fold` (R191): the exclusive or of the covered bytes, from the seed `0xEF`. -/
def checksumFold (c : List Byte) : Byte := c.foldl (fun acc x => acc ^^^ x) Config.ckSeed

/-- What the checksum verification gives (R190). -/
structure ChecksumResult where
  acc : Byte
  checked : Bool
  mismatch : Bool
  computed : Byte
deriving DecidableEq, Repr

/-- `checksum(cmd, fld32, P)` (R190): made for a member of `CKSUM_SET` with at least 16 payload bytes, over the payload from
offset 16, against all 32 bits of the received field (R192); otherwise `(0, 0, 0x00)` (R193), the accumulator at its
initial value (R28). The direction takes no part (R194). -/
def checksum (p : Params) (cmd : Byte) (fld32 : BitVec 32) (payload : Memory) : ChecksumResult :=
  if commandCk p cmd && decide (Config.ckMinPlen ≤ payload.length) then
    let acc := checksumFold (payload.drop Config.ckOff)
    { acc := acc, checked := true, mismatch := acc.zeroExtend 32 != fld32, computed := acc }
  else
    { acc := Config.ckSeed, checked := false, mismatch := false, computed := 0x00 }

end Sys2Proof.Machine
end

