-- ==== Sys2Proof/Machine/Ops.lean ====
section
/-! DEFINITION. The operations that the meanings share: the stores to `BUF`, the stages of a frame's decode, raising an
error and closing a frame (20_memory.md, 42_packet_validator.md, 60_exceptions.md). -/

namespace Sys2Proof.Machine

/-- `f` after an operation that went on. -/
def andThen (r : Result) (f : State → Result) : Result :=
  match r with
  | .next s => f s
  | .fault e => .fault e
  | .refused e => .refused e

/-! ## RAW: the buffer `BUF` -/

/-- There is room for one more byte: `BUF_CAP` is unbounded or above `LEN` (R67, D5). -/
def hasRoom (s : State) : Bool :=
  match s.params.bufCap with
  | none => true
  | some cap => decide (s.buf.length < cap)

/-- `MemWrite(LEN, 1, b)` (R56): `BUF <- BUF ++ [b]`, the only store of the block. -/
def appendByte (b : Byte) (s : State) : State := { s with buf := s.buf ++ [b] }

/-- The form of `BUF` (R20, R27 (b)): no byte of it is `0xC0`, and `LEN <= BUF_CAP`. -/
def Memory.wf (cap : Option Nat) (m : Memory) : Bool :=
  !m.contains Config.delim &&
  match cap with
  | none => true
  | some c => decide (m.length ≤ c)

/-! ## Opening and closing a frame -/

/-- The state of an opened frame (R121): `st <- InFrame; TS0 <- ts_s; BUF <- []`. -/
def openFrame (tsS : Timestamp) (s : State) : State := { s with st := .inFrame, ts0 := tsS, buf := [] }

/-- The state change of every close, with or without an error (R270): `st <- Idle; BUF <- []`, `TS0` unchanged. This is
also the return: the block is in `Idle` and ready (R272). -/
def closeFrame (s : State) : State := { s with st := .idle, buf := [] }

/-- `emit (t_start = TS0, t_end, r)` (R123), and the end of the values that live inside the step (R28). -/
def emitRecord (tEnd : Timestamp) (body : Body) (s : State) : State :=
  { s with work := Work.rest, out := some { tStart := s.ts0, tEnd := tEnd, body := body } }

/-! ## The stages of a frame's decode -/

/-- The start of `unescape(BUF)` (R140): `ep := 0`, `i := 0`, `out := []`, every other value of R28 at its initial value. -/
def startScan (tEnd : Timestamp) (s : State) : State :=
  { s with work := { Work.rest with phase := .scan, tEnd := tEnd } }

/-- One operation of the scan: it emits `bytes`, leaves `ep`, and goes on to the next byte (R140). -/
def scanOne (bytes : List Byte) (ep : Bool) (s : State) : State :=
  { s with work := { s.work with u := s.work.u ++ bytes, ep := ep, pos := s.work.pos + 1 } }

/-- Raising an error in a decode, the block's exception entry (R9, R270): the decode of this frame ends with the kind. The
close that follows, `closeFrame`, is the same for every error. -/
def raiseError (k : Kind) (s : State) : State :=
  { s with work := { s.work with kind := k, phase := .done } }

/-- The header fields become the values of the decode (R162). -/
def loadHeader (h : Header) (s : State) : State :=
  { s with work := { s.work with dir := h.dir, cmd := h.cmd, size := h.size, fld := h.fld, payload := h.payload
                                 phase := .dir } }

/-- The end of the scan: `PV.SHORT` (R161) when `U` has no complete header, else `PV.HEADER` (R162). -/
def endScan (s : State) : State :=
  match parseHeader s.work.u with
  | none => raiseError .decodeFault s
  | some h => loadHeader h s

/-- The direction-specific field of a valid direction (R163, R164). -/
def setDirection (isResp : Bool) (sel : FldSel) (shown : Quad) (s : State) : State :=
  { s with work := { s.work with isResp := isResp, fldSel := sel, fldOut := shown, phase := .cmd } }

/-- What every command class does (R160, R195): `PV.LEN` (R166), the checksum dispatch (R190), `PV.LOOKUP` (R168). Which
class it is follows from the attributes of `c` in the parameters (R89, log entry 9). -/
def applyCommand (c : Byte) (s : State) : State :=
  let ck := checksum s.params c (quadWord s.work.fld) s.work.payload
  { s with work := { s.work with
      lenMismatch := lengthMismatch s.work.size s.work.payload.length
      acc := ck.acc, ckChecked := ck.checked, ckMismatch := ck.mismatch, ckCalc := ck.computed
      cmdKnown := commandKnown s.params c
      kind := .packet, phase := .done } }

/-- The outcome that the decode has reached (R160). -/
def workBody (w : Work) : Body :=
  match w.kind with
  | .packet => .packet
      { isResp := w.isResp, cmd := w.cmd, cmdKnown := w.cmdKnown, size := w.size, fld := w.fld, fldSel := w.fldSel
        fldOut := w.fldOut, payload := w.payload, lenMismatch := w.lenMismatch, ckChecked := w.ckChecked
        ckMismatch := w.ckMismatch, ckCalc := w.ckCalc }
  | .badDirection => .badDirection
  | .decodeFault => .decodeFault

/-- The end of a decode: the record is emitted and the frame closed (R123). -/
def finishFrame (s : State) : State := closeFrame (emitRecord s.work.tEnd (workBody s.work) s)

/-! ## The reset event -/

/-- The reset event (R300, R301): the state of R33, whatever came before; no output. The parameters are not state (R302), and
what the host is still to feed is the host's. -/
def resetEvent (s : State) : State := { State.resetWith s.params with input := s.input }

end Sys2Proof.Machine
end

