-- ==== Sys2Proof/Machine/Command.lean ====
section
/-! DEFINITION. One operation for each command identifier of the opcode table, and one for all others (43_checksum_dispatch.md
R196 to R218). The class of a command, and so what `applyCommand` does for it, is that of the parameters; the class named
here is the one in the default instantiation (R90, R195). -/

namespace Sys2Proof.Machine

/-- `FLASH_BEGIN` (R196), `cmd = 0x02`, class `PLAIN`. -/
def execFlashBegin (s : State) : Result := .next (applyCommand 0x02 s)

/-- `FLASH_DATA` (R197), `cmd = 0x03`, class `CK`. -/
def execFlashData (s : State) : Result := .next (applyCommand 0x03 s)

/-- `FLASH_END` (R198), `cmd = 0x04`, class `PLAIN`. -/
def execFlashEnd (s : State) : Result := .next (applyCommand 0x04 s)

/-- `MEM_BEGIN` (R199), `cmd = 0x05`, class `PLAIN`. -/
def execMemBegin (s : State) : Result := .next (applyCommand 0x05 s)

/-- `MEM_END` (R200), `cmd = 0x06`, class `PLAIN`. -/
def execMemEnd (s : State) : Result := .next (applyCommand 0x06 s)

/-- `MEM_DATA` (R201), `cmd = 0x07`, class `CK`. -/
def execMemData (s : State) : Result := .next (applyCommand 0x07 s)

/-- `SYNC` (R202), `cmd = 0x08`, class `PLAIN`. -/
def execSync (s : State) : Result := .next (applyCommand 0x08 s)

/-- `WRITE_REG` (R203), `cmd = 0x09`, class `PLAIN`. -/
def execWriteReg (s : State) : Result := .next (applyCommand 0x09 s)

/-- `READ_REG` (R204), `cmd = 0x0A`, class `RR`. -/
def execReadReg (s : State) : Result := .next (applyCommand 0x0A s)

/-- `SPI_SET_PARAMS` (R205), `cmd = 0x0B`, class `PLAIN`. -/
def execSpiSetParams (s : State) : Result := .next (applyCommand 0x0B s)

/-- `SPI_ATTACH` (R206), `cmd = 0x0D`, class `PLAIN`. -/
def execSpiAttach (s : State) : Result := .next (applyCommand 0x0D s)

/-- `READ_FLASH_SLOW` (R207), `cmd = 0x0E`, class `PLAIN`. -/
def execReadFlashSlow (s : State) : Result := .next (applyCommand 0x0E s)

/-- `CHANGE_BAUDRATE` (R208), `cmd = 0x0F`, class `PLAIN`. -/
def execChangeBaudrate (s : State) : Result := .next (applyCommand 0x0F s)

/-- `FLASH_DEFL_BEGIN` (R209), `cmd = 0x10`, class `PLAIN`. -/
def execFlashDeflBegin (s : State) : Result := .next (applyCommand 0x10 s)

/-- `FLASH_DEFL_DATA` (R210), `cmd = 0x11`, class `CK`. -/
def execFlashDeflData (s : State) : Result := .next (applyCommand 0x11 s)

/-- `FLASH_DEFL_END` (R211), `cmd = 0x12`, class `PLAIN`. -/
def execFlashDeflEnd (s : State) : Result := .next (applyCommand 0x12 s)

/-- `SPI_FLASH_MD5` (R212), `cmd = 0x13`, class `PLAIN`. -/
def execSpiFlashMd5 (s : State) : Result := .next (applyCommand 0x13 s)

/-- `GET_SECURITY_INFO` (R213), `cmd = 0x14`, class `PLAIN`. -/
def execGetSecurityInfo (s : State) : Result := .next (applyCommand 0x14 s)

/-- `ERASE_FLASH` (R214), `cmd = 0xD0`, class `PLAIN`. -/
def execEraseFlash (s : State) : Result := .next (applyCommand 0xD0 s)

/-- `ERASE_REGION` (R215), `cmd = 0xD1`, class `PLAIN`. -/
def execEraseRegion (s : State) : Result := .next (applyCommand 0xD1 s)

/-- `READ_FLASH` (R216), `cmd = 0xD2`, class `PLAIN`. -/
def execReadFlash (s : State) : Result := .next (applyCommand 0xD2 s)

/-- `RUN_USER_CODE` (R217), `cmd = 0xD3`, class `PLAIN`. -/
def execRunUserCode (s : State) : Result := .next (applyCommand 0xD3 s)

/-- `CMD.UNKNOWN` (R218): every identifier with no row of its own, class `PLAIN`. -/
def execCmdUnknown (c : Byte) (s : State) : Result := .next (applyCommand c s)

end Sys2Proof.Machine
end

