-- ==== Sys2Proof/Machine/Direction.lean ====
section
/-! DEFINITION. The three direction classes (42_packet_validator.md R163 to R165). -/

namespace Sys2Proof.Machine

/-- `DIR.REQ` (R163): `is_resp := 0; fld_sel := CHECKSUM; fld_out := fld`. -/
def execDirReq (s : State) : Result := .next (setDirection false .checksum s.work.fld s)

/-- `DIR.RESP` (R164): the received field for the register-read command, the placeholder for every other. -/
def execDirResp (s : State) : Result :=
  if commandRr s.params s.work.cmd then .next (setDirection true .value s.work.fld s)
  else .next (setDirection true .placeholder Config.placeholder s)

/-- `DIR.INVALID` (R165): `raise BadDirection`; neither the length nor the checksum is looked at (R262). -/
def execDirInvalid (_d : Byte) (s : State) : Result := .next (raiseError .badDirection s)

end Sys2Proof.Machine
end

