-- ==== Sys2Proof/Machine/Unescape.lean ====
section
/-! DEFINITION. The five operations of the escape decoder (41_unescape.md R141 to R145). -/

namespace Sys2Proof.Machine

/-- `UE.END` (R141): `out := out ++ [0xC0]; ep := 0`. -/
def execUeEnd (s : State) : Result := .next (scanOne [Config.delim] false s)

/-- `UE.ESC` (R142): `out := out ++ [0xDB]; ep := 0`. -/
def execUeEsc (s : State) : Result := .next (scanOne [Config.esc] false s)

/-- `UE.DROP` (R143): `ep := 0`; the byte is lost. -/
def execUeDrop (_x : Byte) (s : State) : Result := .next (scanOne [] false s)

/-- `UE.MARK` (R144): `ep := 1`. -/
def execUeMark (s : State) : Result := .next (scanOne [] true s)

/-- `UE.LIT` (R145): `out := out ++ [x]`; `ep` stays as it is, 0 where this operation is selected. -/
def execUeLit (x : Byte) (s : State) : Result := .next (scanOne [x] s.work.ep s)

end Sys2Proof.Machine
end

