-- ==== Sys2Proof/Machine/Framer.lean ====
section
/-! DEFINITION. The five operations of the framer (40_framer.md R121 to R125). `FR.CLOSE_EMIT` runs the operations of levels 2
and 3 on the closing frame, within its one step (R59). -/

namespace Sys2Proof.Machine

/-- `FR.OPEN` (R121). -/
def execFrOpen (tsS : Timestamp) (s : State) : Result := .next (openFrame tsS s)

/-- `FR.CLOSE_DISCARD` (R122): error class `INCOMPLETE_FRAME`, which records nothing at all (R261). -/
def execFrCloseDiscard (s : State) : Result := .next (closeFrame s)

/-- The operation that the decode of levels 2 and 3 has selected. A stream operation is never one
(`decodeRaw`, `decodeDirection` and `decodeCommand` give none) and does nothing here. -/
def execPart (i : Instr) (s : State) : Result :=
  match i with
  | .frOpen _ => .next s
  | .frCloseDiscard => .next s
  | .frCloseEmit _ => .next s
  | .frAppend _ => .next s
  | .frIgnore _ => .next s
  | .ueEnd => execUeEnd s
  | .ueEsc => execUeEsc s
  | .ueDrop x => execUeDrop x s
  | .ueMark => execUeMark s
  | .ueLit x => execUeLit x s
  | .dirReq => execDirReq s
  | .dirResp => execDirResp s
  | .dirInvalid d => execDirInvalid d s
  | .flashBegin => execFlashBegin s
  | .flashData => execFlashData s
  | .flashEnd => execFlashEnd s
  | .memBegin => execMemBegin s
  | .memEnd => execMemEnd s
  | .memData => execMemData s
  | .sync => execSync s
  | .writeReg => execWriteReg s
  | .readReg => execReadReg s
  | .spiSetParams => execSpiSetParams s
  | .spiAttach => execSpiAttach s
  | .readFlashSlow => execReadFlashSlow s
  | .changeBaudrate => execChangeBaudrate s
  | .flashDeflBegin => execFlashDeflBegin s
  | .flashDeflData => execFlashDeflData s
  | .flashDeflEnd => execFlashDeflEnd s
  | .spiFlashMd5 => execSpiFlashMd5 s
  | .getSecurityInfo => execGetSecurityInfo s
  | .eraseFlash => execEraseFlash s
  | .eraseRegion => execEraseRegion s
  | .readFlash => execReadFlash s
  | .runUserCode => execRunUserCode s
  | .cmdUnknown c => execCmdUnknown c s

/-- The unescape scan (R140): each byte selects one operation of level 2, left to right. -/
def scanBytes : List Byte → State → Result
  | [], s => .next s
  | x :: rest, s => andThen (execPart (decodeRaw s.work.ep x) s) (scanBytes rest)

/-- Level 3a: the direction byte, where a complete header was found (R160). -/
def decodeDirectionPart (s : State) : Result :=
  match s.work.phase with
  | .dir => execPart (decodeDirection s.work.dir) s
  | .rest => .next s
  | .scan => .next s
  | .cmd => .next s
  | .done => .next s

/-- Level 3b: the command identifier, where the direction was valid (R160). -/
def decodeCommandPart (s : State) : Result :=
  match s.work.phase with
  | .cmd => execPart (decodeCommand s.work.cmd) s
  | .rest => .next s
  | .scan => .next s
  | .dir => .next s
  | .done => .next s

/-- `FR.CLOSE_EMIT` (R123): `U <- unescape(BUF); r <- decode(U); emit (TS0, ts_e, r); st <- Idle; BUF <- []`. -/
def execFrCloseEmit (tsE : Timestamp) (s : State) : Result :=
  andThen (scanBytes s.buf (startScan tsE s)) fun scanned =>
  andThen (decodeDirectionPart (endScan scanned)) fun directed =>
  andThen (decodeCommandPart directed) fun decoded =>
  .next (finishFrame decoded)

/-- `FR.APPEND` (R124): `BUF <- BUF ++ [b]`. With a finite `BUF_CAP` and a full buffer the spec gives the step no meaning
(U9). -/
def execFrAppend (b : Byte) (s : State) : Result :=
  if hasRoom s then .next (appendByte b s) else .refused .bufferFull

/-- `FR.IGNORE` (R125): no state element changes. -/
def execFrIgnore (_b : Byte) (s : State) : Result := .next s

end Sys2Proof.Machine
end

