-- ==== Sys2Proof/Machine/Dispatch.lean ====
section
/-! DEFINITION. Which meaning each operation has. -/

namespace Sys2Proof.Machine

def exec (i : Instr) (s : State) : Host.Outcome State Fault Refusal :=
  match i with
  | .frOpen tsS => Sys2Proof.Machine.execFrOpen tsS s
  | .frCloseDiscard => Sys2Proof.Machine.execFrCloseDiscard s
  | .frCloseEmit tsE => Sys2Proof.Machine.execFrCloseEmit tsE s
  | .frAppend b => Sys2Proof.Machine.execFrAppend b s
  | .frIgnore b => Sys2Proof.Machine.execFrIgnore b s
  | .ueEnd => Sys2Proof.Machine.execUeEnd s
  | .ueEsc => Sys2Proof.Machine.execUeEsc s
  | .ueDrop x => Sys2Proof.Machine.execUeDrop x s
  | .ueMark => Sys2Proof.Machine.execUeMark s
  | .ueLit x => Sys2Proof.Machine.execUeLit x s
  | .dirReq => Sys2Proof.Machine.execDirReq s
  | .dirResp => Sys2Proof.Machine.execDirResp s
  | .dirInvalid d => Sys2Proof.Machine.execDirInvalid d s
  | .flashBegin => Sys2Proof.Machine.execFlashBegin s
  | .flashData => Sys2Proof.Machine.execFlashData s
  | .flashEnd => Sys2Proof.Machine.execFlashEnd s
  | .memBegin => Sys2Proof.Machine.execMemBegin s
  | .memEnd => Sys2Proof.Machine.execMemEnd s
  | .memData => Sys2Proof.Machine.execMemData s
  | .sync => Sys2Proof.Machine.execSync s
  | .writeReg => Sys2Proof.Machine.execWriteReg s
  | .readReg => Sys2Proof.Machine.execReadReg s
  | .spiSetParams => Sys2Proof.Machine.execSpiSetParams s
  | .spiAttach => Sys2Proof.Machine.execSpiAttach s
  | .readFlashSlow => Sys2Proof.Machine.execReadFlashSlow s
  | .changeBaudrate => Sys2Proof.Machine.execChangeBaudrate s
  | .flashDeflBegin => Sys2Proof.Machine.execFlashDeflBegin s
  | .flashDeflData => Sys2Proof.Machine.execFlashDeflData s
  | .flashDeflEnd => Sys2Proof.Machine.execFlashDeflEnd s
  | .spiFlashMd5 => Sys2Proof.Machine.execSpiFlashMd5 s
  | .getSecurityInfo => Sys2Proof.Machine.execGetSecurityInfo s
  | .eraseFlash => Sys2Proof.Machine.execEraseFlash s
  | .eraseRegion => Sys2Proof.Machine.execEraseRegion s
  | .readFlash => Sys2Proof.Machine.execReadFlash s
  | .runUserCode => Sys2Proof.Machine.execRunUserCode s
  | .cmdUnknown c => Sys2Proof.Machine.execCmdUnknown c s

end Sys2Proof.Machine
end

