-- ==== Sys2Proof/Machine/Fetch.lean ====
section
/-! DEFINITION. What the next step works on, and placing it there. -/

namespace Sys2Proof.Machine

/-- What the next step finds. -/
inductive Fetched
  /-- Nothing is fed. -/
  | waiting
  /-- The host applies reset. -/
  | resetNext
  /-- A byte to decode, with its context. -/
  | operation (c : Context) (b : Byte)
  /-- The scan has read all of `BUF`. -/
  | scanEnd
  /-- The outcome of the decode is known. -/
  | frameEnd
deriving DecidableEq, Repr

/-- The next unit: a host event at rest (R22, R278), else the next byte of the decode in progress (R80). -/
def fetch (s : State) : Fetched :=
  match s.work.phase with
  | .rest =>
    match s.input with
    | [] => .waiting
    | .reset :: _ => .resetNext
    | .feed b tsS tsE :: _ => .operation (.sb s.st s.buf.length tsS tsE) b
  | .scan =>
    match readByte s.buf s.work.pos with
    | some x => .operation (.rb s.work.ep) x
    | none => .scanEnd
  | .dir => .operation .dir s.work.dir
  | .cmd => .operation .cmd s.work.cmd
  | .done => .frameEnd

/-- The first host event is taken. -/
def popEvent (s : State) : State := { s with input := s.input.tail }

/-- A step in which nothing is fed: it has no output. -/
def idleStep (s : State) : State := { s with out := none }

/-- What a step does before the operation: a transaction is taken from the host and the last step's record is gone (R35). An
operation of a decode in progress takes nothing. -/
def beforeExec (s : State) : State :=
  match s.work.phase with
  | .rest => idleStep (popEvent s)
  | .scan => s
  | .dir => s
  | .cmd => s
  | .done => s

/-- The byte stands where `fetch` finds it with this context: as the host's next transaction; as the only byte of a scan;
as the direction byte of a parsed header; as the identifier of a request. -/
def placeByte (c : Context) (b : Byte) (s : State) : State :=
  match c with
  | .sb st _ tsS tsE => { s with st := st, work := Work.rest, input := .feed b tsS tsE :: s.input }
  | .rb ep => { s with st := .inFrame, buf := [b], work := { Work.rest with phase := .scan, ep := ep } }
  | .dir => { s with st := .inFrame, work := { Work.rest with phase := .dir, dir := b } }
  | .cmd => { s with st := .inFrame, work := { Work.rest with phase := .cmd, cmd := b } }

end Sys2Proof.Machine
end

