-- ==== Sys2Proof/Machine/Step.lean ====
section
/-! DEFINITION. One step, and placing an operation where the next step fetches it. -/

namespace Sys2Proof.Machine

/-- One step. At rest it takes the next host event: a transaction is one step of the spec (R10, R120), with its decode and
everything else inside it (R59). With nothing fed, nothing happens and nothing is emitted (R128, R266). Where a decode is in
progress, which no run from reset shows (log entry 7), it does the next operation of that decode. -/
def step (s : State) : Host.Outcome State Fault Refusal :=
  match fetch s with
  | .waiting => .next (idleStep s)
  | .resetNext => .next (resetEvent (popEvent s))
  | .operation c b => exec (decode c b) (beforeExec s)
  | .scanEnd => .next (endScan s)
  | .frameEnd => .next (finishFrame s)

/-- The operation whose bits are `w` stands where `step` fetches next (log entries 2 and 8): a stream byte as the host's
next transaction, a byte of a later level as the unit that the decode in progress comes to. -/
def State.withFetchWord (s : State) (nbits w : Nat) : State :=
  placeByte (tableContext nbits (BitVec.ofNat 8 w)) (BitVec.ofNat 8 w) s

end Sys2Proof.Machine
end

