-- ==== Sys2Proof/Machine/Reference.lean ====
section
/-! DEFINITION. The spec's own functions, `unescape` (R140), `decode` (R160) and `feed` (R120), as it writes them: on byte
sequences, with no machine state. The meanings do not use them; statements say that the meanings compute them. -/

namespace Sys2Proof.Machine

open Sys2Proof.Config (Params)

/-- The loop of `unescape` from a value of `ep` on (R140). -/
def unescapeFrom : Bool → List Byte → List Byte
  | _, [] => []
  | true, x :: r =>
    if x = 0xDC then 0xC0 :: unescapeFrom false r
    else if x = 0xDD then 0xDB :: unescapeFrom false r
    else unescapeFrom false r
  | false, x :: r =>
    if x = 0xDB then unescapeFrom true r
    else x :: unescapeFrom false r

/-- `unescape` (R140): `ep` is initially false. -/
def unescape (b : List Byte) : List Byte := unescapeFrom false b

/-- How often the scan meets `UE.MARK` and `UE.DROP` (R147), from a value of `ep` on. -/
def marksAndDropsFrom : Bool → List Byte → Nat × Nat
  | _, [] => (0, 0)
  | true, x :: r =>
    let md := marksAndDropsFrom false r
    if x = 0xDC ∨ x = 0xDD then md else (md.1, md.2 + 1)
  | false, x :: r =>
    if x = 0xDB then
      let md := marksAndDropsFrom true r
      (md.1 + 1, md.2)
    else marksAndDropsFrom false r

/-- The direction-specific fields `is_resp`, `fld_sel`, `fld_out` (R160, R163, R164); `none` for an invalid direction (R165). -/
def directionFields (p : Params) (dir cmd : Byte) (fld : Quad) : Option (Bool × FldSel × Quad) :=
  if dir = 0x00 then some (false, .checksum, fld)
  else if dir = 0x01 then
    if cmd = p.cmdReadReg then some (true, .value, fld)
    else some (true, .placeholder, ⟨0x00, 0x00, 0x00, 0x00⟩)
  else none

/-- `decode` (R160). -/
def decodePacket (p : Params) (u : List Byte) : Body :=
  match u with
  | dir :: cmd :: s0 :: s1 :: f0 :: f1 :: f2 :: f3 :: payload =>
    let size := s0.toNat + 256 * s1.toNat
    let fld : Quad := ⟨f0, f1, f2, f3⟩
    match directionFields p dir cmd fld with
    | some (isResp, sel, shown) =>
      let checked := p.cksumSet.contains cmd && decide (16 ≤ payload.length)
      let acc := checksumFold (payload.drop 16)
      let fld32 := f0.toNat + 2 ^ 8 * f1.toNat + 2 ^ 16 * f2.toNat + 2 ^ 24 * f3.toNat
      .packet
        { isResp := isResp, cmd := cmd, cmdKnown := commandKnown p cmd, size := BitVec.ofNat 16 size, fld := fld
          fldSel := sel, fldOut := shown, payload := payload, lenMismatch := payload.length != size
          ckChecked := checked, ckMismatch := checked && acc.toNat != fld32
          ckCalc := if checked then acc else 0x00 }
    | none => .badDirection
  | _ => .decodeFault

/-- The framer's part of the state, as `feed` reads and writes it (R20). -/
structure FramerView where
  st : FramerState
  buf : List Byte
  ts0 : Timestamp
deriving DecidableEq, Repr

/-- `feed` (R120): the next state and the record, if one is emitted; `none` where an append finds a finite `BUF_CAP`
reached (R124, U9). -/
def feed (p : Params) (v : FramerView) (b : Byte) (tsS tsE : Timestamp) : Option (FramerView × Option Record) :=
  if b = 0xC0 then
    if v.st = .idle then some ({ st := .inFrame, buf := [], ts0 := tsS }, none)
    else if v.buf.length < 8 then some ({ v with st := .idle, buf := [] }, none)
    else some ({ v with st := .idle, buf := [] },
      some { tStart := v.ts0, tEnd := tsE, body := decodePacket p (unescape v.buf) })
  else
    if v.st = .inFrame then
      if p.bufCap = some v.buf.length then none else some ({ v with buf := v.buf ++ [b] }, none)
    else some (v, none)

end Sys2Proof.Machine
end

