-- ==== Sys2Proof/Machine/Errors.lean ====
section
/-! DEFINITION. The five error classes and which of them the close of a frame reports (60_exceptions.md R260 to R268). -/

namespace Sys2Proof.Machine

open Sys2Proof.Config (Params)

/-- The error classes (R260). -/
inductive ErrorClass
  | incompleteFrame
  | badDirection
  | lengthMismatch
  | checksumMismatch
  | decodeFault
deriving DecidableEq, Repr

/-- Their codes, which appear in no output (R260, D12); 0 means no error. -/
def ErrorClass.code : ErrorClass → Nat
  | .incompleteFrame => 1
  | .badDirection => 2
  | .lengthMismatch => 3
  | .checksumMismatch => 4
  | .decodeFault => 5

/-- The class ends the decode of its frame (R260). -/
def ErrorClass.fatal : ErrorClass → Bool
  | .incompleteFrame => true
  | .badDirection => true
  | .lengthMismatch => false
  | .checksumMismatch => false
  | .decodeFault => true

/-- The classes that a record tells of (R260). -/
def bodyErrors : Body → List ErrorClass
  | .badDirection => [.badDirection]
  | .decodeFault => [.decodeFault]
  | .packet p =>
    (if p.lenMismatch then [.lengthMismatch] else []) ++ (if p.ckMismatch then [.checksumMismatch] else [])

/-- The classes of a closing delimiter, in the order of R267: `LEN < 8`, and nothing else is looked at; then those of the
decode. -/
def closeErrors (p : Params) (buf : List Byte) : List ErrorClass :=
  if buf.length < 8 then [.incompleteFrame] else bodyErrors (decodePacket p (unescape buf))

end Sys2Proof.Machine
end

