-- ==== Sys2Proof/Machine/Rendering.lean ====
section
/-! DEFINITION. The text line that the host makes of a record (44_rendering.md R240 to R252). It is host software and no
operation uses it; what the source does not give of the line is an opaque constant of Config (log entries 15, 21 and 22). -/

namespace Sys2Proof.Machine

open Sys2Proof.Config (Params LinePart)

/-- One hexadecimal digit, in upper or lower case. -/
def hexDigit (upper : Bool) (n : Nat) : String :=
  if n < 10 then ["0", "1", "2", "3", "4", "5", "6", "7", "8", "9"].getD n ""
  else if upper then ["A", "B", "C", "D", "E", "F"].getD (n - 10) ""
  else ["a", "b", "c", "d", "e", "f"].getD (n - 10) ""

/-- A byte as two hexadecimal digits. -/
def hexPair (upper : Bool) (b : Byte) : String := hexDigit upper (b.toNat / 16) ++ hexDigit upper (b.toNat % 16)

/-- A byte as `0x` and two hexadecimal digits (R245). DESIGN CHOICE (log entry 15): upper case, as in the one example. -/
def byteText (b : Byte) : String := "0x" ++ hexPair true b

/-- A byte of the payload: a hex byte (R249), whose prefix and digit case are open. DEDUCED (log entry 22): two digits, as in
R245. -/
def payloadByteText (b : Byte) : String :=
  (if Config.payloadPrefixed then "0x" else "") ++ hexPair Config.payloadUpper b

/-- Texts with one space between them (R245, R249). -/
def spaced (texts : List String) : String := String.intercalate " " texts

/-- The four bytes in arrival order (R245). -/
def quadText (q : Quad) : String := spaced [byteText q.b0, byteText q.b1, byteText q.b2, byteText q.b3]

/-- Part 2, the command name (R243). DESIGN CHOICE (log entry 15): the digits of an unmapped identifier are upper case. -/
def nameText (p : Params) (c : Byte) : String :=
  match p.cmdTable.lookup c with
  | some name => name
  | none => "Unknown Command (" ++ byteText c ++ ")"

/-- Part 3, the declared size, in decimal (R244, D27). -/
def sizeText (size : BitVec 16) : String := "data_size=" ++ toString size.toNat

/-- The direction-specific field description (R245 to R247). -/
def fieldText (k : Packet) : String :=
  match k.fldSel with
  | .checksum => "checksum=" ++ quadText k.fldOut
  | .value => "value=" ++ quadText k.fldOut
  | .placeholder => "value=0x00 0x00 0x00 0x00"

/-- What is appended to the field description (R248): the annotation on a mismatch, nothing otherwise. -/
def checksumNote (k : Packet) : String := if k.ckMismatch then Config.checksumAnnotation k.ckCalc else ""

/-- Part 5 (R249): the whole payload, and nothing when it is empty. -/
def payloadParts (k : Packet) : List (LinePart × String) :=
  if k.payload.isEmpty then [] else [(.payload, spaced (k.payload.map payloadByteText))]

/-- Part 6 (R250): the length annotation, last, if present. -/
def lengthParts (k : Packet) : List (LinePart × String) :=
  if k.lenMismatch then [(.lengthNote, Config.lengthAnnotation)] else []

/-- The parts of the line in their order (R241): the checksum annotation belongs to part 4, directly after the description. -/
def lineParts (p : Params) (k : Packet) : List (LinePart × String) :=
  [(.packetType, Config.typeWord k.isResp), (.name, nameText p k.cmd), (.size, sizeText k.size),
   (.field, fieldText k ++ checksumNote k)] ++ payloadParts k ++ lengthParts k

/-- The parts with what stands in each gap, from the part `before` on to the end of the line (R241). An absent part leaves the
gap between its neighbours (DESIGN CHOICE, log entry 21). -/
def joinParts : Option LinePart → List (LinePart × String) → String
  | before, [] => Config.gap before none
  | before, (part, text) :: rest => Config.gap before (some part) ++ text ++ joinParts (some part) rest

/-- The line of a record (R240, R251). -/
def recordLine (p : Params) (r : Record) : String :=
  match r.body with
  | .packet k => joinParts none (lineParts p k)
  | .badDirection => Config.badDirectionText
  | .decodeFault => Config.decodeFaultText

end Sys2Proof.Machine
end

