-- ==== Sys2Proof/Safety.lean ====
section
/-! DEFINITION. The terms in which claims are made: runs and their records, the invariants, and when a state is at rest. -/

namespace Sys2Proof.Safety

open Sys2Proof.Machine
open Sys2Proof.Config (Params)

/-- No decode is in progress: the block is between two steps of the spec (R20, R28). -/
def AtRest (s : State) : Prop := s.work = Work.rest

/-- The buffer has no bound (R7, D5). -/
def Unbounded (s : State) : Prop := s.params.bufCap = none

/-- The invariants of the persistent state (R27 (a), (b)) with the bound of R20, between two steps. -/
structure Inv (s : State) : Prop where
  /-- Nothing of a decode survives its step (R20, R28). -/
  atRest : AtRest s
  /-- R27 (a). -/
  idleEmpty : s.st = .idle → s.buf = []
  /-- R27 (b), and `LEN <= BUF_CAP` (R20). -/
  bufWf : Memory.wf s.params.bufCap s.buf = true

/-- Every command operation with its identifier (R196 to R218); `u` is that of `CMD.UNKNOWN`. -/
def commandOperations (u : Byte) : List (Instr × Byte) :=
  [(.flashBegin, 0x02), (.flashData, 0x03), (.flashEnd, 0x04), (.memBegin, 0x05), (.memEnd, 0x06), (.memData, 0x07),
   (.sync, 0x08), (.writeReg, 0x09), (.readReg, 0x0A), (.spiSetParams, 0x0B), (.spiAttach, 0x0D)] ++
  [(.readFlashSlow, 0x0E), (.changeBaudrate, 0x0F), (.flashDeflBegin, 0x10), (.flashDeflData, 0x11),
   (.flashDeflEnd, 0x12), (.spiFlashMd5, 0x13), (.getSecurityInfo, 0x14), (.eraseFlash, 0xD0), (.eraseRegion, 0xD1),
   (.readFlash, 0xD2), (.runUserCode, 0xD3), (.cmdUnknown u, u)]

/-- The framer's part of a state. -/
def view (s : State) : FramerView := { st := s.st, buf := s.buf, ts0 := s.ts0 }

/-- `k` steps: the records in the order they are emitted, and the state reached; `none` where a step does not go on.
-/
def run : Nat → State → Option (List Record × State)
  | 0, s => some ([], s)
  | k + 1, s =>
    match step s with
    | .next s' => (run k s').map fun (rs, e) => (s'.out.toList ++ rs, e)
    | .fault _ => none
    | .refused _ => none

/-- `k` steps with the records left aside. -/
def iterate (k : Nat) (s : State) : Option State := (run k s).map Prod.snd

/-- One step for each host event that is still to come (R62: in the order they are fed). -/
def drain (s : State) : Option (List Record × State) := run s.input.length s

/-- The records of feeding these events to a state, instead of what it was to be fed. -/
def recordsOf (s : State) (es : List HostEvent) : Option (List Record) :=
  (drain { s with input := es }).map Prod.fst

/-- A transaction of the host. -/
def transaction (t : Byte × Timestamp × Timestamp) : HostEvent := .feed t.1 t.2.1 t.2.2

/-- The bytes of a stream of transactions. -/
def bytesOf (ts : List (Byte × Timestamp × Timestamp)) : List Byte := ts.map Prod.fst

/-- A frame with a delimiter of its own at each end, as a sender transmits it (R96, R305). -/
structure Bracketed where
  opening : Timestamp × Timestamp
  bytes : List (Byte × Timestamp × Timestamp)
  closing : Timestamp × Timestamp
deriving DecidableEq, Repr

/-- What feeding the frame is. -/
def Bracketed.events (f : Bracketed) : List HostEvent :=
  [.feed Config.delim f.opening.1 f.opening.2] ++ f.bytes.map transaction ++
  [.feed Config.delim f.closing.1 f.closing.2]

/-- Every timestamp of the event is a `w`-bit value: `w` is `TS_W` (R7, R10). -/
def EventFits (w : Nat) : HostEvent → Prop
  | .feed _ tsS tsE => tsS.token < 2 ^ w ∧ tsE.token < 2 ^ w
  | .reset => True

/-- Every timestamp that the state holds (`TS0` only while a frame is open: it is unspecified after reset) or is to be
fed is a `w`-bit value (R7, R10, R26). -/
structure TimestampsFit (w : Nat) (s : State) : Prop where
  ts0 : s.st = .inFrame → s.ts0.token < 2 ^ w
  input : ∀ e ∈ s.input, EventFits w e
  out : ∀ r ∈ s.out, r.tStart.token < 2 ^ w ∧ r.tEnd.token < 2 ^ w

/-- The event with its timestamps renamed. -/
def renameEvent (f : Timestamp → Timestamp) : HostEvent → HostEvent
  | .feed b tsS tsE => .feed b (f tsS) (f tsE)
  | .reset => .reset

/-- The record with its timestamps renamed. -/
def renameRecord (f : Timestamp → Timestamp) (r : Record) : Record :=
  { r with tStart := f r.tStart, tEnd := f r.tEnd }

end Sys2Proof.Safety
end

