-- ==== Sys2Proof/Certificates/Slice0/Obligations.lean ====
section
/-! DEFINITION. The statements about the block, for the provers. Each docstring names the rule of spec/ it formalises; each
hypothesis has its witness in Sys2Proof/Tests/Slice0.lean. -/

open Sys2Proof Sys2Proof.Machine Sys2Proof.Safety
open Sys2Proof.Config (Params)

/-! ## Reset and the host interface -/

/-- R33: after reset `st = Idle` and `BUF = []`; nothing of a decode is held (R28) and nothing is emitted (R300). In
every instantiation, and in the default one. -/
def Obligations.ResetIsIdleAndEmpty : Prop :=
  (∀ p : Params, (State.resetWith p).st = .idle ∧ (State.resetWith p).buf = [] ∧
    (State.resetWith p).work = Work.rest ∧ (State.resetWith p).out = none ∧ (State.resetWith p).params = p) ∧
  State.reset = State.resetWith defaultParams

/-- Reset discards an open frame without a record, and the state after it is that of R33, whatever came before: "The
state after reset does not depend on the state before it", which R301 marks as the spec's inference. -/
def Obligations.ResetEventDiscardsOpenFrame : Prop :=
  ∀ (s : State) (rest : List HostEvent), AtRest s → s.input = .reset :: rest →
    step s = .next { State.resetWith s.params with input := rest }

/-- R128, R266, R279: with nothing fed the block holds its state and emits nothing; the model's step with nothing to
take is log entry 1. -/
def Obligations.WithoutInputTheBlockHolds : Prop :=
  ∀ s : State, AtRest s → s.input = [] → step s = .next { s with out := none }

/-- A step runs the decoded operation. At rest it takes the transaction (R120); in a decode in progress (log entry 7)
the next unit is `BUF[i]`, the direction byte or the command identifier (R80), and past the last unit the header is
parsed or the record emitted. -/
def Obligations.StepRunsTheDecodedOperation : Prop :=
  (∀ (s : State) (b : Byte) (tsS tsE : Timestamp) (rest : List HostEvent),
    s.work.phase = .rest → s.input = .feed b tsS tsE :: rest →
    step s = exec (decode (.sb s.st s.buf.length tsS tsE) b) { s with input := rest, out := none }) ∧
  (∀ (s : State) (x : Byte), s.work.phase = .scan → readByte s.buf s.work.pos = some x →
    step s = exec (decode (.rb s.work.ep) x) s) ∧
  (∀ s : State, s.work.phase = .dir → step s = exec (decode .dir s.work.dir) s) ∧
  (∀ s : State, s.work.phase = .cmd → step s = exec (decode .cmd s.work.cmd) s) ∧
  (∀ s : State, s.work.phase = .scan → readByte s.buf s.work.pos = none → step s = .next (endScan s)) ∧
  (∀ s : State, s.work.phase = .done → step s = .next (finishFrame s))

/-! ## Encoding -/

/-- Words written out from R82, R83, R88 and R90. -/
def Obligations.SampleBytesDecode : Prop :=
  (∀ tsS tsE : Timestamp, decode (.sb .idle 0 tsS tsE) 0b11000000 = .frOpen tsS) ∧
  (∀ tsS tsE : Timestamp, decode (.sb .inFrame 7 tsS tsE) 0b11000000 = .frCloseDiscard) ∧
  (∀ tsS tsE : Timestamp, decode (.sb .inFrame 8 tsS tsE) 0b11000000 = .frCloseEmit tsE) ∧
  decode (.rb true) 0b11011100 = .ueEnd ∧ decode (.rb true) 0b11011101 = .ueEsc ∧
  decode (.rb true) 0b11011011 = .ueDrop 0xDB ∧ decode (.rb false) 0b11011011 = .ueMark ∧
  decode (.rb false) 0b11011100 = .ueLit 0xDC ∧
  decode .dir 0b00000000 = .dirReq ∧ decode .dir 0b00000001 = .dirResp ∧ decode .dir 0b00000010 = .dirInvalid 2 ∧
  decode .cmd 0b00000011 = .flashData ∧ decode .cmd 0b00001000 = .sync ∧ decode .cmd 0b11010011 = .runUserCode ∧
  decode .cmd 0b00001100 = .cmdUnknown 0x0C

/-- Decode and encode agree, both ways: the byte of a well-formed operation, in any context that its row admits,
decodes to it; and what any byte decodes to is well-formed, admits the context, and encodes to that byte (R82, R83,
R88, R90, R91). -/
def Obligations.DecodeAndEncodeAgree : Prop :=
  (∀ (i : Instr) (c : Context) (rest : List Byte), i.wellFormed = true → i.admits c = true →
    decodeBytes c (encode i ++ rest) = .ok (i, rest)) ∧
  (∀ (c : Context) (b : Byte),
    (decode c b).wellFormed = true ∧ (decode c b).admits c = true ∧ encode (decode c b) = [b])

/-- First match in the opcode table (R95, an inference of the spec's: "A decoder written from the table alone")
selects the same operation as R82, R83, R88 and R90, in the default instantiation. -/
def Obligations.TableReadingSelectsTheSameOperation : Prop :=
  ∀ (c : Context) (b : Byte), tableDecode defaultParams c b = some (decode c b)

/-! ## The framer -/

/-- R121: `FR.OPEN`. What it writes, which byte selects it whatever `ts_e` is, its step, and the first delimiter after
reset, which opens whatever bytes came before it. -/
def Obligations.OpeningDelimiterOpensAFrame : Prop :=
  (∀ (tsS : Timestamp) (s : State), exec (.frOpen tsS) s = .next { s with st := .inFrame, ts0 := tsS, buf := [] }) ∧
  (∀ (len : Nat) (tsS tsE : Timestamp), decode (.sb .idle len tsS tsE) 0xC0 = .frOpen tsS) ∧
  (∀ (s : State) (tsS tsE : Timestamp) (rest : List HostEvent), AtRest s → s.st = .idle →
    s.input = .feed 0xC0 tsS tsE :: rest →
    step s = .next { s with st := .inFrame, ts0 := tsS, buf := [], input := rest, out := none }) ∧
  (∀ (p : Params) (before : List (Byte × Timestamp × Timestamp)) (tsS tsE : Timestamp), 0xC0 ∉ bytesOf before →
    drain { State.resetWith p with input := before.map transaction ++ [.feed 0xC0 tsS tsE] } =
      some ([], { State.resetWith p with st := .inFrame, ts0 := tsS }))

/-- R122: `FR.CLOSE_DISCARD`. The raw count decides, whatever the bytes; no output; `TS0` keeps its value; neither
timestamp is used. -/
def Obligations.ShortFrameIsDiscarded : Prop :=
  (∀ s : State, exec .frCloseDiscard s = .next { s with st := .idle, buf := [] }) ∧
  (∀ (len : Nat) (tsS tsE : Timestamp), len < 8 → decode (.sb .inFrame len tsS tsE) 0xC0 = .frCloseDiscard) ∧
  (∀ (s : State) (tsS tsE : Timestamp) (rest : List HostEvent), AtRest s → s.st = .inFrame → s.buf.length < 8 →
    s.input = .feed 0xC0 tsS tsE :: rest →
    step s = .next { s with st := .idle, buf := [], input := rest, out := none })

/-- R123: `FR.CLOSE_EMIT` emits exactly one record, `decode(unescape(BUF))` with `TS0` and `ts_e`, and returns to
`Idle` with an empty buffer; nothing of the decode is left. The operations of levels 2 and 3 make it, byte by byte. -/
def Obligations.ClosingDelimiterEmitsTheDecodedFrame : Prop :=
  (∀ (tsE : Timestamp) (s : State), exec (.frCloseEmit tsE) s = .next { s with
    st := .idle, buf := [], work := Work.rest
    out := some { tStart := s.ts0, tEnd := tsE, body := decodePacket s.params (unescape s.buf) } }) ∧
  (∀ (len : Nat) (tsS tsE : Timestamp), 8 ≤ len → decode (.sb .inFrame len tsS tsE) 0xC0 = .frCloseEmit tsE) ∧
  (∀ (s : State) (tsS tsE : Timestamp) (rest : List HostEvent), AtRest s → s.st = .inFrame → 8 ≤ s.buf.length →
    s.input = .feed 0xC0 tsS tsE :: rest →
    step s = .next { s with
      st := .idle, buf := [], input := rest
      out := some { tStart := s.ts0, tEnd := tsE, body := decodePacket s.params (unescape s.buf) } })

/-- R124: `FR.APPEND`. The byte is appended, whatever it is, and nothing else changes. With a full finite buffer the step is
refused: at `LEN = BUF_CAP` as R10 and U9 ask, and above it, where the spec has no state (R20), by the model's choice (log
entry 10). -/
def Obligations.ByteInAFrameIsAppended : Prop :=
  (∀ (b : Byte) (s : State), s.params.bufCap = none → exec (.frAppend b) s = .next { s with buf := s.buf ++ [b] }) ∧
  (∀ (b : Byte) (s : State) (cap : Nat), s.params.bufCap = some cap → s.buf.length < cap →
    exec (.frAppend b) s = .next { s with buf := s.buf ++ [b] }) ∧
  (∀ (b : Byte) (s : State) (cap : Nat), s.params.bufCap = some cap → cap ≤ s.buf.length →
    exec (.frAppend b) s = .refused .bufferFull) ∧
  (∀ (len : Nat) (tsS tsE : Timestamp) (b : Byte), b ≠ 0xC0 → decode (.sb .inFrame len tsS tsE) b = .frAppend b)

/-- R125: `FR.IGNORE`. No state element changes and there is no output. -/
def Obligations.ByteOutsideAFrameIsIgnored : Prop :=
  (∀ (b : Byte) (s : State), exec (.frIgnore b) s = .next s) ∧
  (∀ (len : Nat) (tsS tsE : Timestamp) (b : Byte), b ≠ 0xC0 → decode (.sb .idle len tsS tsE) b = .frIgnore b) ∧
  (∀ (s : State) (b : Byte) (tsS tsE : Timestamp) (rest : List HostEvent), AtRest s → s.st = .idle → b ≠ 0xC0 →
    s.input = .feed b tsS tsE :: rest → step s = .next { s with input := rest, out := none })

/-- R56: the append stores at index `LEN` and nowhere else, and over all operations `BUF` is otherwise kept or
cleared. -/
def Obligations.OnlyStoreIsTheAppend : Prop :=
  (∀ (b : Byte) (s t : State), exec (.frAppend b) s = .next t →
    readByte t.buf (appendAddress s) = some b ∧ t.buf.length = s.buf.length + 1 ∧
    ∀ a, a ≠ appendAddress s → readByte t.buf a = readByte s.buf a) ∧
  (∀ (i : Instr) (s t : State), exec i s = .next t →
    t.buf = [] ∨ t.buf = s.buf ∨ ∃ b, i = .frAppend b ∧ t.buf = s.buf ++ [b])

/-- R20's table of writers: the operations of levels 2 and 3 write nothing that persists; only `FR.OPEN` writes `TS0`;
only opening and closing write `st`; no operation writes a parameter (R30) or takes input, and only `FR.CLOSE_EMIT`
emits. -/
def Obligations.WritersOfThePersistentState : Prop :=
  ∀ (i : Instr) (s t : State), exec i s = .next t →
    t.params = s.params ∧ t.input = s.input ∧
    ((∃ ep, i.admits (.rb ep) = true) ∨ i.admits .dir = true ∨ i.admits .cmd = true → t = { s with work := t.work }) ∧
    (t.ts0 = s.ts0 ∨ ∃ tsS, i = .frOpen tsS ∧ t.ts0 = tsS) ∧
    (t.st = s.st ∨ (∃ tsS, i = .frOpen tsS ∧ t.st = .inFrame) ∨
      ((i = .frCloseDiscard ∨ ∃ tsE, i = .frCloseEmit tsE) ∧ t.st = .idle)) ∧
    (t.out = s.out ∨ ∃ tsE, i = .frCloseEmit tsE)

/-- R22, the spec's inference from R121 to R125: the transitions of `st`: a delimiter changes it, any other byte does
not. -/
def Obligations.OnlyADelimiterMovesTheFramer : Prop :=
  ∀ (s t : State) (b : Byte) (tsS tsE : Timestamp) (rest : List HostEvent), AtRest s →
    s.input = .feed b tsS tsE :: rest → step s = .next t →
    t.input = rest ∧ (b = 0xC0 → t.st ≠ s.st) ∧ (b ≠ 0xC0 → t.st = s.st)

/-- R120: one step of the machine is `feed`, the spec's step function, on every state that meets the invariant. -/
def Obligations.StepIsFeed : Prop :=
  ∀ (s : State) (b : Byte) (tsS tsE : Timestamp) (rest : List HostEvent), Inv s → s.input = .feed b tsS tsE :: rest →
    (∀ v r, feed s.params (view s) b tsS tsE = some (v, r) →
      step s = .next { s with st := v.st, buf := v.buf, ts0 := v.ts0, input := rest, out := r }) ∧
    (feed s.params (view s) b tsS tsE = none → step s = .refused .bufferFull)

/-- R127, the spec's inference from R120: a record is emitted exactly at a delimiter that closes a frame of 8 or more
raw bytes; a stream with no delimiter emits none, nor does, from reset, a stream with exactly one. -/
def Obligations.WhenRecordsAppear : Prop :=
  (∀ s t : State, AtRest s → step s = .next t →
    (t.out.isSome = true ↔
      ∃ tsS tsE rest, s.input = .feed 0xC0 tsS tsE :: rest ∧ s.st = .inFrame ∧ 8 ≤ s.buf.length)) ∧
  (∀ (s : State) (ts : List (Byte × Timestamp × Timestamp)), AtRest s → Unbounded s → 0xC0 ∉ bytesOf ts →
    recordsOf s (ts.map transaction) = some []) ∧
  (∀ (p : Params) (ts : List (Byte × Timestamp × Timestamp)), p.bufCap = none → (bytesOf ts).count 0xC0 = 1 →
    recordsOf (State.resetWith p) (ts.map transaction) = some [])

/-- R126, R306, the spec's inferences from R121, R123 and R125: a delimiter does one thing. Of two frames that share
one delimiter only the first is decoded, and the last delimiter opens a new, empty frame; with their own delimiters
both are. -/
def Obligations.SharedDelimiterLosesTheSecondFrame : Prop :=
  ∀ (s : State) (a b : List (Byte × Timestamp × Timestamp)) (s1 e1 s2 e2 s3 e3 s4 e4 : Timestamp),
    AtRest s → Unbounded s → s.st = .idle → 0xC0 ∉ bytesOf a → 0xC0 ∉ bytesOf b → 8 ≤ a.length → 8 ≤ b.length →
    drain { s with input := [.feed 0xC0 s1 e1] ++ a.map transaction ++ [.feed 0xC0 s2 e2] ++ b.map transaction ++
        [.feed 0xC0 s3 e3] } =
      some ([{ tStart := s1, tEnd := e2, body := decodePacket s.params (unescape (bytesOf a)) }],
        { s with st := .inFrame, buf := [], ts0 := s3, input := [], out := none }) ∧
    recordsOf s ([.feed 0xC0 s1 e1] ++ a.map transaction ++ [.feed 0xC0 s2 e2] ++ [.feed 0xC0 s3 e3] ++
        b.map transaction ++ [.feed 0xC0 s4 e4]) =
      some [{ tStart := s1, tEnd := e2, body := decodePacket s.params (unescape (bytesOf a)) },
        { tStart := s3, tEnd := e4, body := decodePacket s.params (unescape (bytesOf b)) }]

/-- R305, the spec's inference from R121, R122, R125 and R126: after one stray delimiter, bracketed frames with
nothing between them are all lost, however many and however long, and the block stays out of step. -/
def Obligations.StrayDelimiterLosesEveryFrame : Prop :=
  ∀ (s : State) (tsS tsE : Timestamp) (frames : List Bracketed),
    AtRest s → s.st = .idle → (∀ f ∈ frames, 0xC0 ∉ bytesOf f.bytes) →
    ∃ e, drain { s with input := .feed 0xC0 tsS tsE :: frames.flatMap Bracketed.events } = some ([], e) ∧
      e.st = .inFrame ∧ e.buf = []

/-! ## Invariants and whole-machine rules -/

/-- The invariant holds at reset, in every instantiation. -/
def Obligations.InvariantHoldsAtReset : Prop :=
  (∀ p : Params, Inv (State.resetWith p) ∧ (State.resetWith p).st = .idle ∧ (State.resetWith p).buf = []) ∧
  Inv State.reset ∧ State.reset.st = .idle ∧ State.reset.buf = []

/-- R27 (a), (b), with the bound of R20, R28 and R30: every step keeps the invariant, and the parameters. -/
def Obligations.EveryStepKeepsTheInvariant : Prop :=
  ∀ s t : State, Inv s → step s = .next t → Inv t ∧ t.params = s.params

/-- R27, the spec's inference from R33 and R121 to R125: after reset and after every step, `Idle` has an empty buffer,
`BUF` holds no `0xC0`, and while a frame is open `TS0` is the `ts_s` of a delimiter that was fed. -/
def Obligations.PersistentStateInvariantsInEveryRun : Prop :=
  ∀ (p : Params) (es : List HostEvent) (k : Nat) (rs : List Record) (e : State),
    run k { State.resetWith p with input := es } = some (rs, e) →
    (e.st = .idle → e.buf.length = 0) ∧ 0xC0 ∉ e.buf ∧
    (e.st = .inFrame → ∃ tsE, HostEvent.feed 0xC0 e.ts0 tsE ∈ es)

/-- R271 where the buffer is unbounded: every state has a next state. Where it is finite, the only stop is an append, of a
byte that is no delimiter, in `InFrame` with `LEN` at `BUF_CAP` or above: the refusal at `BUF_CAP` is R10 and U9, and above
it, where the spec has no state, the model's choice (log entry 10). No step faults. -/
def Obligations.OnlyAFullBufferStopsTheBlock : Prop :=
  (∀ s : State, Unbounded s → ∃ t, step s = .next t) ∧
  (∀ (s : State) (r : Refusal), step s = .refused r →
    r = .bufferFull ∧ s.work.phase = .rest ∧
    (∃ b tsS tsE rest, s.input = .feed b tsS tsE :: rest ∧ b ≠ 0xC0) ∧
    s.st = .inFrame ∧ ∃ cap, s.params.bufCap = some cap ∧ cap ≤ s.buf.length) ∧
  (∀ (s : State) (f : Fault), step s ≠ .fault f)

/-- R130, the spec's inference from R122, R123 and R27: after either close the state is `(Idle, [])`; from such a
state the records of every stream are those from reset, so neither `TS0` nor anything of an earlier frame is ever seen
again. -/
def Obligations.FramesAreIndependent : Prop :=
  (∀ (i : Instr) (s t : State), (i = .frCloseDiscard ∨ ∃ tsE, i = .frCloseEmit tsE) → exec i s = .next t →
    t.st = .idle ∧ t.buf = []) ∧
  (∀ (s : State) (es : List HostEvent), AtRest s → s.st = .idle → s.buf = [] →
    recordsOf s es = recordsOf (State.resetWith s.params) es)

/-- R26: a timestamp is an opaque token. Renaming the timestamps of a stream renames those of its records, by any
function at all, and changes nothing else: the block never compares one, adds to one or tests one. -/
def Obligations.TimestampsAreOnlyCopied : Prop :=
  ∀ (f : Timestamp → Timestamp) (s : State) (es : List HostEvent), AtRest s → s.st = .idle →
    recordsOf s (es.map (renameEvent f)) = (recordsOf s es).map fun rs => rs.map (renameRecord f)

/-- R7, R10: for any width `TS_W`, if the timestamps fed are `TS_W`-bit values, so is every timestamp that is stored
or emitted; the model's tokens have no width (log entry 5). -/
def Obligations.TimestampsKeepTheirWidth : Prop :=
  ∀ (w : Nat) (s t : State), AtRest s → TimestampsFit w s → step s = .next t → TimestampsFit w t

/-- R270: the state change of a close is the same with and without an error, whatever the frame held. -/
def Obligations.EveryCloseLeavesTheSameState : Prop :=
  ∀ (s : State) (tsS tsE : Timestamp) (rest : List HostEvent), AtRest s → s.st = .inFrame →
    s.input = .feed 0xC0 tsS tsE :: rest →
    ∃ r, step s = .next { s with st := .idle, buf := [], input := rest, out := r }

/-! ## The escape decoder -/

/-- R141: `UE.END`. -/
def Obligations.EscapedDelimiterIsUnescaped : Prop :=
  (∀ s : State, exec .ueEnd s = .next { s with work := { s.work with
    u := s.work.u ++ [0xC0], ep := false, pos := s.work.pos + 1 } }) ∧
  decode (.rb true) 0xDC = .ueEnd ∧ unescape [0xDB, 0xDC] = [0xC0]

/-- R142: `UE.ESC`; the emitted `0xDB` does not start an escape. -/
def Obligations.EscapedMarkerIsUnescaped : Prop :=
  (∀ s : State, exec .ueEsc s = .next { s with work := { s.work with
    u := s.work.u ++ [0xDB], ep := false, pos := s.work.pos + 1 } }) ∧
  decode (.rb true) 0xDD = .ueEsc ∧ unescape [0xDB, 0xDD, 0xDC] = [0xDB, 0xDC]

/-- "This is the only way `0xC0` can appear in `U`", "the only way `0xDB` can appear in `U`": inferences that R141 and
R142 mark as the spec's own; the first for a byte of `BUF`, which is never `0xC0` (R27 (b)). -/
def Obligations.OnlyEscapesYieldTheReservedValues : Prop :=
  ∀ (ep : Bool) (x : Byte) (s t : State), s.work.ep = ep → exec (decode (.rb ep) x) s = .next t →
    (x ≠ 0xC0 → (t.work.u = s.work.u ++ [0xC0] ↔ decode (.rb ep) x = .ueEnd)) ∧
    (t.work.u = s.work.u ++ [0xDB] ↔ decode (.rb ep) x = .ueEsc)

/-- R143: `UE.DROP`: any byte but `0xDC` and `0xDD` after the marker, the marker itself among them, is lost. -/
def Obligations.InvalidEscapeIsDropped : Prop :=
  (∀ (x : Byte) (s : State), exec (.ueDrop x) s = .next { s with work := { s.work with
    ep := false, pos := s.work.pos + 1 } }) ∧
  (∀ x : Byte, x ≠ 0xDC → x ≠ 0xDD → decode (.rb true) x = .ueDrop x ∧ unescape [0xDB, x] = []) ∧
  unescape [0xDB, 0xDB, 0xDC] = [0xDC] ∧ unescape [0xDB, 0x00, 0xDC] = [0xDC]

/-- R144: `UE.MARK`. -/
def Obligations.EscapeMarkerSetsEscapePending : Prop :=
  (∀ s : State, exec .ueMark s = .next { s with work := { s.work with ep := true, pos := s.work.pos + 1 } }) ∧
  decode (.rb false) 0xDB = .ueMark

/-- R145: `UE.LIT`: every byte but the marker, `0xDC` and `0xDD` among them, is emitted unchanged where `ep = 0`; no
flag is written. -/
def Obligations.OrdinaryByteIsEmitted : Prop :=
  (∀ (x : Byte) (s : State), exec (.ueLit x) s = .next { s with work := { s.work with
    u := s.work.u ++ [x], pos := s.work.pos + 1 } }) ∧
  (∀ x : Byte, x ≠ 0xDB → decode (.rb false) x = .ueLit x ∧ unescape [x] = [x])

/-- R140: the operations of level 2, one for each byte of `BUF` from index `i` on, compute `unescape`: stepping
through the scan reaches its end with `U` as the function gives it, and writes nothing else but `ep` and `i`. -/
def Obligations.ScanComputesUnescape : Prop :=
  ∀ s : State, s.work.phase = .scan → s.work.pos ≤ s.buf.length →
    ∃ ep, iterate (s.buf.length - s.work.pos) s = some { s with work := { s.work with
      u := s.work.u ++ unescapeFrom s.work.ep (s.buf.drop s.work.pos), ep := ep, pos := s.buf.length } }

/-- The one step of `FR.CLOSE_EMIT` is what the machine does in single operations: from the start of the scan, `step`
reaches the state that it leaves, in at most `LEN + 4` steps (R59, R123, R316). -/
def Obligations.CloseIsItsSingleOperations : Prop :=
  ∀ (tsE : Timestamp) (s : State), ∃ k t, k ≤ s.buf.length + 4 ∧
    iterate k (startScan tsE s) = some t ∧ exec (.frCloseEmit tsE) s = .next t

/-- R147, the spec's inference from R140: totality and length of `unescape`. -/
def Obligations.UnescapeLength : Prop :=
  (∀ b : List Byte,
    (unescape b).length + (marksAndDropsFrom false b).1 + (marksAndDropsFrom false b).2 = b.length ∧
    (unescape b).length ≤ b.length ∧
    ((unescape b).length = b.length ↔ (marksAndDropsFrom false b).1 = 0) ∧
    ((marksAndDropsFrom false b).1 = 0 ↔ 0xDB ∉ b) ∧
    (0xDB ∉ b → unescape b = b)) ∧
  unescape [0xDB, 0xDC, 0xDB, 0xDC, 0xDB, 0xDC, 0xDB, 0xDC] = [0xC0, 0xC0, 0xC0, 0xC0] ∧
  unescape [0xDB, 0x00, 0xDB, 0x00, 0xDB, 0x00, 0xDB, 0x00] = [] ∧
  unescape [0xDB, 0x41] = [] ∧ unescape [0xDB] = []

/-- R148, the spec's inference from R140: `unescape` is not idempotent. -/
def Obligations.UnescapeIsNotIdempotent : Prop :=
  unescape [0xDB, 0xDD, 0xDC] = [0xDB, 0xDC] ∧ unescape [0xDB, 0xDC] = [0xC0] ∧
  ¬ ∀ b, unescape (unescape b) = unescape b

/-- R149, the spec's inference from R140: the round trip. `unescape` undoes `esc`, whose output has no delimiter; and
feeding `frame(x)` to the block in `Idle` yields exactly one record, `decode(x)` with the two delimiters' timestamps,
when `|esc(x)| >= 8`, and none otherwise. -/
def Obligations.FrameRoundTrip : Prop :=
  (∀ x : List Byte, unescape (escape x) = x ∧ 0xC0 ∉ escape x) ∧
  (∀ (s : State) (x : List Byte) (ts : List (Byte × Timestamp × Timestamp)) (s1 e1 s2 e2 : Timestamp),
    AtRest s → Unbounded s → s.st = .idle → frameBytes x = [0xC0] ++ bytesOf ts ++ [0xC0] →
    recordsOf s ([.feed 0xC0 s1 e1] ++ ts.map transaction ++ [.feed 0xC0 s2 e2]) =
      some (if 8 ≤ (escape x).length then
        [{ tStart := s1, tEnd := e2, body := decodePacket s.params x }] else []))

/-- R146 and R308, inferences of the spec's from R140 and R143: a marker at the end of a frame, and a marker with a byte that
completes no escape, are lost without trace, whatever the sender put before them. -/
def Obligations.LossInsideEscapesIsSilent : Prop :=
  ∀ (y : List Byte),
    unescape (escape y ++ [0xDB]) = y ∧
    (∀ x : Byte, x ≠ 0xDC → x ≠ 0xDD → unescape (escape y ++ [0xDB, x]) = y) ∧
    (∀ (x : Byte) (z : List Byte), x ≠ 0xDC → x ≠ 0xDD →
      unescape (escape y ++ [0xDB, x] ++ escape z) = y ++ z)

/-- R307, R94, R96: a well-formed packet is never dropped by the threshold, and decodes as a packet with its declared size, its
field and its whole payload, without a length mismatch. The first is the spec's inference from R122 and R147. -/
def Obligations.WellFormedPacketIsNeverDropped : Prop :=
  ∀ (p : Params) (dir cmd : Byte) (fld : Quad) (payload : List Byte), dir = 0x00 ∨ dir = 0x01 →
    payload.length ≤ 65535 →
    8 ≤ (escape (packetBytes dir cmd fld payload)).length ∧
    ∃ k, decodePacket p (unescape (escape (packetBytes dir cmd fld payload))) = .packet k ∧
      k.isResp = decide (dir = 0x01) ∧ k.cmd = cmd ∧ k.size.toNat = payload.length ∧ k.fld = fld ∧
      k.payload = payload ∧ k.lenMismatch = false

/-! ## The packet validator -/

/-- R55: `MemRead` is little-endian, for the widths 1, 2 and 4, and defined exactly where all its bytes are. -/
def Obligations.MemReadIsLittleEndian : Prop :=
  ∀ (u : Memory) (a : Nat),
    (∀ n, memRead u a n = none ↔ n ≠ 0 ∧ u.length < a + n) ∧
    (∀ b0, readByte u a = some b0 → memRead u a 1 = some b0.toNat) ∧
    (∀ b0 b1, readByte u a = some b0 → readByte u (a + 1) = some b1 →
      memRead u a 2 = some (b0.toNat + 256 * b1.toNat)) ∧
    (∀ b0 b1 b2 b3, readByte u a = some b0 → readByte u (a + 1) = some b1 → readByte u (a + 2) = some b2 →
      readByte u (a + 3) = some b3 →
      memRead u a 4 = some (b0.toNat + 256 * b1.toNat + 256 ^ 2 * b2.toNat + 256 ^ 3 * b3.toNat))

/-- R53, R162: the header fields are those reads, the two views of the field agree, and the header is there exactly
when `|U| >= 8`. -/
def Obligations.HeaderFieldsAreTheReads : Prop :=
  (∀ u : Memory, (parseHeader u).isSome = true ↔ 8 ≤ u.length) ∧
  (∀ (u : Memory) (h : Header), parseHeader u = some h →
    memRead u 0 1 = some h.dir.toNat ∧ memRead u 1 1 = some h.cmd.toNat ∧ memRead u 2 2 = some h.size.toNat ∧
    memRead u 4 4 = some (quadWord h.fld).toNat ∧
    readByte u 4 = some h.fld.b0 ∧ readByte u 5 = some h.fld.b1 ∧ readByte u 6 = some h.fld.b2 ∧
    readByte u 7 = some h.fld.b3 ∧
    h.payload = u.drop 8 ∧ h.payload.length = u.length - 8)

/-- R161, R170: a frame of 8 or more raw bytes whose unescaped form is shorter than the header gives a `DECODE_FAULT`
record, whatever its first byte, and nothing else does. -/
def Obligations.ShortUnescapedFrameIsADecodeFault : Prop :=
  (∀ (p : Params) (u : List Byte), decodePacket p u = .decodeFault ↔ u.length < 8) ∧
  (∀ (tsE : Timestamp) (s : State), (unescape s.buf).length < 8 → exec (.frCloseEmit tsE) s = .next { s with
    st := .idle, buf := [], work := Work.rest
    out := some { tStart := s.ts0, tEnd := tsE, body := .decodeFault } }) ∧
  Body.decodeFault.dirErr = false

/-- R163: `DIR.REQ`. -/
def Obligations.RequestShowsTheReceivedField : Prop :=
  (∀ s : State, exec .dirReq s = .next { s with work := { s.work with
    isResp := false, fldSel := .checksum, fldOut := s.work.fld, phase := .cmd } }) ∧
  decode .dir 0x00 = .dirReq

/-- R164: `DIR.RESP`: the received field for the register-read command, the placeholder for every other; the received
field stays in the record, and the checksum comparison uses it. -/
def Obligations.ResponseShowsValueOrPlaceholder : Prop :=
  (∀ s : State, s.work.cmd = s.params.cmdReadReg → exec .dirResp s = .next { s with work := { s.work with
    isResp := true, fldSel := .value, fldOut := s.work.fld, phase := .cmd } }) ∧
  (∀ s : State, s.work.cmd ≠ s.params.cmdReadReg → exec .dirResp s = .next { s with work := { s.work with
    isResp := true, fldSel := .placeholder, fldOut := ⟨0x00, 0x00, 0x00, 0x00⟩, phase := .cmd } }) ∧
  decode .dir 0x01 = .dirResp ∧
  (∀ (p : Params) (cmd s0 s1 f0 f1 f2 f3 : Byte) (payload : List Byte) (k : Packet),
    decodePacket p (0x01 :: cmd :: s0 :: s1 :: f0 :: f1 :: f2 :: f3 :: payload) = .packet k →
    k.fld = ⟨f0, f1, f2, f3⟩ ∧ k.ckMismatch = (checksum p cmd (quadWord ⟨f0, f1, f2, f3⟩) payload).mismatch)

/-- R165, R262: `DIR.INVALID`: decoding stops; the record has no structured field, `dir_err = 1`, and both timestamps,
and the framer returns to `Idle`. -/
def Obligations.BadDirectionStopsTheDecode : Prop :=
  (∀ (d : Byte) (s : State), exec (.dirInvalid d) s = .next { s with work := { s.work with
    kind := .badDirection, phase := .done } }) ∧
  (∀ d : Byte, d ≠ 0x00 → d ≠ 0x01 → decode .dir d = .dirInvalid d) ∧
  (∀ (tsE : Timestamp) (s : State) (d : Byte) (tail : List Byte), unescape s.buf = d :: tail → 7 ≤ tail.length →
    d ≠ 0x00 → d ≠ 0x01 → exec (.frCloseEmit tsE) s = .next { s with
      st := .idle, buf := [], work := Work.rest
      out := some { tStart := s.ts0, tEnd := tsE, body := .badDirection } }) ∧
  (∀ b : Body, b.dirErr = true ↔ b.kind = .badDirection)

/-- R166, R167, R168: the length diagnostic on natural numbers, the whole payload, and the lookup, for every packet.
-/
def Obligations.LengthPayloadAndLookup : Prop :=
  ∀ (p : Params) (u : List Byte) (k : Packet), decodePacket p u = .packet k →
    (k.lenMismatch = true ↔ k.plen ≠ k.size.toNat) ∧ (65535 < k.plen → k.lenMismatch = true) ∧
    k.payload = u.drop 8 ∧ k.plen = u.length - 8 ∧
    memRead u 2 2 = some k.size.toNat ∧ memRead u 1 1 = some k.cmd.toNat ∧
    (k.cmdKnown = true ↔ ∃ name, (k.cmd, name) ∈ p.cmdTable) ∧
    k.ckChecked = (checksum p k.cmd (quadWord k.fld) k.payload).checked ∧
    k.ckMismatch = (checksum p k.cmd (quadWord k.fld) k.payload).mismatch ∧
    k.ckCalc = (checksum p k.cmd (quadWord k.fld) k.payload).computed

/-- R190, R193: the two conditions of the verification are the only ones, and what it outputs. -/
def Obligations.ChecksumIsVerifiedOnTwoConditions : Prop :=
  ∀ (p : Params) (u : List Byte) (k : Packet), decodePacket p u = .packet k →
    (k.ckChecked = true ↔ k.cmd ∈ p.cksumSet ∧ 16 ≤ k.plen) ∧
    (k.ckChecked = true → k.ckCalc = checksumFold (k.payload.drop 16) ∧
      (k.ckMismatch = true ↔ memRead u 4 4 ≠ some k.ckCalc.toNat)) ∧
    (k.ckChecked = false → k.ckMismatch = false ∧ k.ckCalc = 0x00)

/-- R192: equality needs the low byte equal and the three upper bytes zero, of the field as received. -/
def Obligations.ChecksumComparesAllFourBytes : Prop :=
  (∀ (p : Params) (u : List Byte) (k : Packet), decodePacket p u = .packet k → k.ckChecked = true →
    (k.ckMismatch = false ↔ k.fld = ⟨k.ckCalc, 0x00, 0x00, 0x00⟩) ∧
    readByte u 4 = some k.fld.b0 ∧ readByte u 5 = some k.fld.b1 ∧ readByte u 6 = some k.fld.b2 ∧
    readByte u 7 = some k.fld.b3) ∧
  (∀ (p : Params) (c : Byte) (fld : Quad) (payload : Memory), c ∈ p.cksumSet → 16 ≤ payload.length →
    ((checksum p c (quadWord fld) payload).mismatch = true ↔
      (checksumFold (payload.drop 16)).zeroExtend 32 ≠ quadWord fld))

/-- R191, with the spec's inferences in it: the fold starts at the seed, takes the bytes in turn, does not depend on
their order, and a byte value that occurs an even number of times cancels; the covered bytes are those of the
unescaped frame from offset 24. -/
def Obligations.ChecksumFoldIgnoresOrder : Prop :=
  checksumFold [] = 0xEF ∧
  (∀ (c : List Byte) (x : Byte), checksumFold (c ++ [x]) = checksumFold c ^^^ x) ∧
  (∀ c d : List Byte, c.Perm d → checksumFold c = checksumFold d) ∧
  (∀ (c : List Byte) (x : Byte), c.count x % 2 = 0 → checksumFold c = checksumFold (c.filter fun y => y != x)) ∧
  (∀ (p : Params) (u : List Byte) (k : Packet), decodePacket p u = .packet k → k.ckChecked = true →
    k.ckCalc = checksumFold (u.drop 24))

/-- R194: the direction takes no part in the verification. -/
def Obligations.DirectionTakesNoPartInTheChecksum : Prop :=
  ∀ (p : Params) (tail : List Byte) (k k' : Packet), decodePacket p (0x00 :: tail) = .packet k →
    decodePacket p (0x01 :: tail) = .packet k' →
    k'.ckChecked = k.ckChecked ∧ k'.ckMismatch = k.ckMismatch ∧ k'.ckCalc = k.ckCalc

/-- R191, R197: the 16 sub-header bytes are not covered; and changing one covered byte of a packet that verified makes
a mismatch (the source's property, with the place and the byte at any value). -/
def Obligations.ExactlyTheBytesFromOffset16AreCovered : Prop :=
  ∀ (p : Params) (u : List Byte) (k : Packet) (i : Nat) (b : Byte), decodePacket p u = .packet k → k.ckChecked = true →
    8 ≤ i → i < u.length →
    ∃ k', decodePacket p (u.set i b) = .packet k' ∧ k'.ckChecked = true ∧
      (i < 24 → k'.ckCalc = k.ckCalc ∧ k'.ckMismatch = k.ckMismatch) ∧
      (24 ≤ i → readByte u i ≠ some b → k'.ckCalc ≠ k.ckCalc ∧ (k.ckMismatch = false → k'.ckMismatch = true))

/-! ## The commands -/

/-- R89, R90: the attributes of the identifiers in the default instantiation, which meets the constraints of R7; those
of `0x03` and `0x08` in every one that does. -/
def Obligations.DefaultCommandAttributes : Prop :=
  (∀ c : Byte, commandCk defaultParams c = true ↔ c = 0x03 ∨ c = 0x07 ∨ c = 0x11) ∧
  (∀ c : Byte, commandRr defaultParams c = true ↔ c = 0x0A) ∧
  (∀ c : Byte, commandKnown defaultParams c = true ↔ c ∈ commandIds) ∧
  defaultParams.wellFormed = true ∧
  (∀ p : Params, p.wellFormed = true →
    commandCk p 0x03 = true ∧ commandCk p 0x08 = false ∧ commandName p 0x08 = some "SYNC")

/-- R196 to R218, where the checksum is not verified: the identifier is not in `CKSUM_SET`, or the payload has fewer
than 16 bytes. Every command operation, with its own identifier. -/
def Obligations.CommandWithoutVerification : Prop :=
  ∀ (s : State) (u c : Byte) (i : Instr),
    (i, c) ∈ commandOperations u →
    c ∉ s.params.cksumSet ∨ s.work.payload.length < 16 →
    exec i s = .next { s with work := { s.work with
      lenMismatch := s.work.payload.length != s.work.size.toNat
      acc := 0xEF, ckChecked := false, ckMismatch := false, ckCalc := 0x00
      cmdKnown := commandKnown s.params c, kind := .packet, phase := .done } }

/-- R190, R197, R201, R210, and R218 corner case (b): where the identifier is in `CKSUM_SET` and the payload has 16
bytes or more, the checksum is verified against the received field. Every command operation, with its own identifier.
-/
def Obligations.CommandWithVerification : Prop :=
  ∀ (s : State) (u c : Byte) (i : Instr),
    (i, c) ∈ commandOperations u →
    c ∈ s.params.cksumSet → 16 ≤ s.work.payload.length →
    exec i s = .next { s with work := { s.work with
      lenMismatch := s.work.payload.length != s.work.size.toNat
      acc := checksumFold (s.work.payload.drop 16), ckChecked := true
      ckMismatch := (checksumFold (s.work.payload.drop 16)).zeroExtend 32 != quadWord s.work.fld
      ckCalc := checksumFold (s.work.payload.drop 16)
      cmdKnown := commandKnown s.params c, kind := .packet, phase := .done } }

/-- R195, the spec's inference from R190, R163 and R164: the three classes, over every packet and every instantiation:
what a request and a response show, and what is verified. -/
def Obligations.CommandClassesDecideFieldAndVerification : Prop :=
  ∀ (p : Params) (u : List Byte) (k : Packet), decodePacket p u = .packet k →
    (k.isResp = false → k.fldSel = .checksum ∧ k.fldOut = k.fld) ∧
    (k.isResp = true → k.cmd = p.cmdReadReg → k.fldSel = .value ∧ k.fldOut = k.fld) ∧
    (k.isResp = true → k.cmd ≠ p.cmdReadReg → k.fldSel = .placeholder ∧ k.fldOut = ⟨0x00, 0x00, 0x00, 0x00⟩) ∧
    (k.cmd ∈ p.cksumSet → (k.ckChecked = true ↔ 16 ≤ k.plen)) ∧
    (k.cmd ∉ p.cksumSet → k.ckChecked = false)

/-- R218 with the default table: an identifier that `CMD_TABLE` lacks decodes in full, is never verified, and is no
error. -/
def Obligations.UnknownCommandDecodesInFull : Prop :=
  ∀ (dir c s0 s1 f0 f1 f2 f3 : Byte) (payload : List Byte), c ∉ commandIds → dir = 0x00 ∨ dir = 0x01 →
    decode .cmd c = .cmdUnknown c ∧
    ∃ k, decodePacket defaultParams (dir :: c :: s0 :: s1 :: f0 :: f1 :: f2 :: f3 :: payload) = .packet k ∧
      k.cmd = c ∧ k.cmdKnown = false ∧ k.payload = payload ∧ k.fld = ⟨f0, f1, f2, f3⟩ ∧
      (k.ckChecked, k.ckMismatch, k.ckCalc) = (false, false, 0x00) ∧
      (dir = 0x00 → k.isResp = false ∧ k.fldSel = .checksum ∧ k.fldOut = ⟨f0, f1, f2, f3⟩) ∧
      (dir = 0x01 → k.isResp = true ∧ k.fldSel = .placeholder ∧ k.fldOut = ⟨0x00, 0x00, 0x00, 0x00⟩) ∧
      (∀ e ∈ bodyErrors (.packet k), e = .lengthMismatch)

/-! ## Errors, and the host's line -/

/-- R267: the order of the tests at a closing delimiter, and which classes can be reported together; a record of the
machine tells of exactly these. -/
def Obligations.ErrorsAreTestedInOrder : Prop :=
  (∀ (p : Params) (buf : List Byte),
    (buf.length < 8 → closeErrors p buf = [.incompleteFrame]) ∧
    (8 ≤ buf.length → (unescape buf).length < 8 → closeErrors p buf = [.decodeFault]) ∧
    (8 ≤ buf.length → ∀ d tail, unescape buf = d :: tail → 7 ≤ tail.length → d ≠ 0x00 → d ≠ 0x01 →
      closeErrors p buf = [.badDirection]) ∧
    (8 ≤ buf.length → ∀ k, decodePacket p (unescape buf) = .packet k →
      (ErrorClass.lengthMismatch ∈ closeErrors p buf ↔ k.lenMismatch = true) ∧
      (ErrorClass.checksumMismatch ∈ closeErrors p buf ↔ k.ckMismatch = true)) ∧
    (∀ e ∈ closeErrors p buf, e.fatal = true → closeErrors p buf = [e]) ∧
    ((∀ e ∈ closeErrors p buf, e.fatal = false) →
      (closeErrors p buf).Sublist [.lengthMismatch, .checksumMismatch])) ∧
  (∀ (tsE : Timestamp) (s t : State), 8 ≤ s.buf.length → exec (.frCloseEmit tsE) s = .next t →
    t.out.map (fun r => bodyErrors r.body) = some (closeErrors s.params s.buf))

/-- R252: the source's scenario, fed from reset: its one record, and the parts of the host's line (no payload part and
no annotation). -/
def Obligations.ScenarioLineNamesSync : Prop :=
  ∀ tsS tsE : Nat → Timestamp, ∃ k,
    recordsOf State.reset
      [.feed 0xC0 (tsS 0) (tsE 0), .feed 0x00 (tsS 1) (tsE 1), .feed 0x08 (tsS 2) (tsE 2), .feed 0x00 (tsS 3) (tsE 3),
       .feed 0x00 (tsS 4) (tsE 4), .feed 0xEF (tsS 5) (tsE 5), .feed 0x00 (tsS 6) (tsE 6), .feed 0x00 (tsS 7) (tsE 7),
       .feed 0x00 (tsS 8) (tsE 8), .feed 0xC0 (tsS 9) (tsE 9)] =
      some [{ tStart := tsS 0, tEnd := tsE 9, body := .packet k }] ∧
    k.isResp = false ∧ k.payload = [] ∧ k.lenMismatch = false ∧ k.ckMismatch = false ∧
    lineParts defaultParams k =
      [(.packetType, Config.typeWord false), (.name, "SYNC"), (.size, "data_size=0"),
       (.field, "checksum=0xEF 0x00 0x00 0x00")]

/-- R241 to R250: the parts of the line, for every packet: the first four in their order, with the checksum annotation in
the fourth, directly after the field description; the payload next, unless it is empty; the length annotation last. In the
line itself nothing stands between the description and the annotation. A payload byte is two hexadecimal digits, all with
the same prefix and case; which, and what stands in the gaps, is open (log entries 21 and 22). -/
def Obligations.LinePartsFollowTheRecord : Prop :=
  (∃ prefixed upper : Bool, ∀ b : Byte,
    payloadByteText b = (if prefixed then "0x" else "") ++ hexPair upper b) ∧
  ∀ (p : Params) (k : Packet),
    (∀ name, commandName p k.cmd = some name → nameText p k.cmd = name) ∧
    (commandName p k.cmd = none → nameText p k.cmd = "Unknown Command (" ++ byteText k.cmd ++ ")") ∧
    (k.fldSel = .checksum → fieldText k = "checksum=" ++ quadText k.fldOut) ∧
    (k.fldSel = .value → fieldText k = "value=" ++ quadText k.fldOut) ∧
    (k.fldSel = .placeholder → fieldText k = "value=0x00 0x00 0x00 0x00") ∧
    (lineParts p k).take 4 = [(.packetType, Config.typeWord k.isResp), (.name, nameText p k.cmd), (.size, sizeText k.size),
      (.field, fieldText k ++ (if k.ckMismatch then Config.checksumAnnotation k.ckCalc else ""))] ∧
    (k.payload ≠ [] →
      (lineParts p k)[4]? = some (.payload, String.intercalate " " (k.payload.map payloadByteText))) ∧
    (lineParts p k).length = 4 + (if k.payload = [] then 0 else 1) + (if k.lenMismatch then 1 else 0) ∧
    (k.lenMismatch = true → (lineParts p k).getLast? = some (.lengthNote, Config.lengthAnnotation)) ∧
    (k.ckMismatch = true → ∀ tStart tEnd : Timestamp, ∃ before after : String,
      recordLine p { tStart := tStart, tEnd := tEnd, body := .packet k } =
        before ++ (fieldText k ++ Config.checksumAnnotation k.ckCalc) ++ after)
end

