-- ==== Sys2Proof/Laws/State.lean ====
section
/-! SUPPORT. What each update of the state does to each field: one lemma per field per update, each true by rfl. -/

namespace Sys2Proof.Machine

section
variable (b : Byte) (s : State)

@[simp] theorem appendByte_params : (appendByte b s).params = s.params := rfl
@[simp] theorem appendByte_st : (appendByte b s).st = s.st := rfl
@[simp] theorem appendByte_buf : (appendByte b s).buf = s.buf ++ [b] := rfl
@[simp] theorem appendByte_ts0 : (appendByte b s).ts0 = s.ts0 := rfl
@[simp] theorem appendByte_work : (appendByte b s).work = s.work := rfl
@[simp] theorem appendByte_input : (appendByte b s).input = s.input := rfl
@[simp] theorem appendByte_out : (appendByte b s).out = s.out := rfl

end

section
variable (t : Timestamp) (s : State)

@[simp] theorem openFrame_params : (openFrame t s).params = s.params := rfl
@[simp] theorem openFrame_st : (openFrame t s).st = .inFrame := rfl
@[simp] theorem openFrame_buf : (openFrame t s).buf = [] := rfl
@[simp] theorem openFrame_ts0 : (openFrame t s).ts0 = t := rfl
@[simp] theorem openFrame_work : (openFrame t s).work = s.work := rfl
@[simp] theorem openFrame_input : (openFrame t s).input = s.input := rfl
@[simp] theorem openFrame_out : (openFrame t s).out = s.out := rfl

end

section
variable (s : State)

@[simp] theorem closeFrame_params : (closeFrame s).params = s.params := rfl
@[simp] theorem closeFrame_st : (closeFrame s).st = .idle := rfl
@[simp] theorem closeFrame_buf : (closeFrame s).buf = [] := rfl
@[simp] theorem closeFrame_ts0 : (closeFrame s).ts0 = s.ts0 := rfl
@[simp] theorem closeFrame_work : (closeFrame s).work = s.work := rfl
@[simp] theorem closeFrame_input : (closeFrame s).input = s.input := rfl
@[simp] theorem closeFrame_out : (closeFrame s).out = s.out := rfl

end

section
variable (t : Timestamp) (b : Body) (s : State)

@[simp] theorem emitRecord_params : (emitRecord t b s).params = s.params := rfl
@[simp] theorem emitRecord_st : (emitRecord t b s).st = s.st := rfl
@[simp] theorem emitRecord_buf : (emitRecord t b s).buf = s.buf := rfl
@[simp] theorem emitRecord_ts0 : (emitRecord t b s).ts0 = s.ts0 := rfl
@[simp] theorem emitRecord_work : (emitRecord t b s).work = Work.rest := rfl
@[simp] theorem emitRecord_input : (emitRecord t b s).input = s.input := rfl
@[simp] theorem emitRecord_out : (emitRecord t b s).out = some { tStart := s.ts0, tEnd := t, body := b } := rfl

end

section
variable (t : Timestamp) (s : State)

@[simp] theorem startScan_params : (startScan t s).params = s.params := rfl
@[simp] theorem startScan_st : (startScan t s).st = s.st := rfl
@[simp] theorem startScan_buf : (startScan t s).buf = s.buf := rfl
@[simp] theorem startScan_ts0 : (startScan t s).ts0 = s.ts0 := rfl
@[simp] theorem startScan_work : (startScan t s).work = { Work.rest with phase := .scan, tEnd := t } := rfl
@[simp] theorem startScan_input : (startScan t s).input = s.input := rfl
@[simp] theorem startScan_out : (startScan t s).out = s.out := rfl

end

section
variable (bs : List Byte) (ep : Bool) (s : State)

@[simp] theorem scanOne_params : (scanOne bs ep s).params = s.params := rfl
@[simp] theorem scanOne_st : (scanOne bs ep s).st = s.st := rfl
@[simp] theorem scanOne_buf : (scanOne bs ep s).buf = s.buf := rfl
@[simp] theorem scanOne_ts0 : (scanOne bs ep s).ts0 = s.ts0 := rfl
@[simp] theorem scanOne_work : (scanOne bs ep s).work = { s.work with u := s.work.u ++ bs, ep := ep, pos := s.work.pos + 1 } := rfl
@[simp] theorem scanOne_input : (scanOne bs ep s).input = s.input := rfl
@[simp] theorem scanOne_out : (scanOne bs ep s).out = s.out := rfl

end

section
variable (k : Kind) (s : State)

@[simp] theorem raiseError_params : (raiseError k s).params = s.params := rfl
@[simp] theorem raiseError_st : (raiseError k s).st = s.st := rfl
@[simp] theorem raiseError_buf : (raiseError k s).buf = s.buf := rfl
@[simp] theorem raiseError_ts0 : (raiseError k s).ts0 = s.ts0 := rfl
@[simp] theorem raiseError_work : (raiseError k s).work = { s.work with kind := k, phase := .done } := rfl
@[simp] theorem raiseError_input : (raiseError k s).input = s.input := rfl
@[simp] theorem raiseError_out : (raiseError k s).out = s.out := rfl

end

section
variable (h : Header) (s : State)

@[simp] theorem loadHeader_params : (loadHeader h s).params = s.params := rfl
@[simp] theorem loadHeader_st : (loadHeader h s).st = s.st := rfl
@[simp] theorem loadHeader_buf : (loadHeader h s).buf = s.buf := rfl
@[simp] theorem loadHeader_ts0 : (loadHeader h s).ts0 = s.ts0 := rfl
@[simp] theorem loadHeader_work : (loadHeader h s).work = { s.work with dir := h.dir, cmd := h.cmd, size := h.size, fld := h.fld, payload := h.payload, phase := .dir } := rfl
@[simp] theorem loadHeader_input : (loadHeader h s).input = s.input := rfl
@[simp] theorem loadHeader_out : (loadHeader h s).out = s.out := rfl

end

section
variable (r : Bool) (f : FldSel) (q : Quad) (s : State)

@[simp] theorem setDirection_params : (setDirection r f q s).params = s.params := rfl
@[simp] theorem setDirection_st : (setDirection r f q s).st = s.st := rfl
@[simp] theorem setDirection_buf : (setDirection r f q s).buf = s.buf := rfl
@[simp] theorem setDirection_ts0 : (setDirection r f q s).ts0 = s.ts0 := rfl
@[simp] theorem setDirection_work : (setDirection r f q s).work = { s.work with isResp := r, fldSel := f, fldOut := q, phase := .cmd } := rfl
@[simp] theorem setDirection_input : (setDirection r f q s).input = s.input := rfl
@[simp] theorem setDirection_out : (setDirection r f q s).out = s.out := rfl

end

section
variable (c : Byte) (s : State)

@[simp] theorem applyCommand_params : (applyCommand c s).params = s.params := rfl
@[simp] theorem applyCommand_st : (applyCommand c s).st = s.st := rfl
@[simp] theorem applyCommand_buf : (applyCommand c s).buf = s.buf := rfl
@[simp] theorem applyCommand_ts0 : (applyCommand c s).ts0 = s.ts0 := rfl
@[simp] theorem applyCommand_input : (applyCommand c s).input = s.input := rfl
@[simp] theorem applyCommand_out : (applyCommand c s).out = s.out := rfl

end

section
variable (s : State)

@[simp] theorem finishFrame_params : (finishFrame s).params = s.params := rfl
@[simp] theorem finishFrame_st : (finishFrame s).st = .idle := rfl
@[simp] theorem finishFrame_buf : (finishFrame s).buf = [] := rfl
@[simp] theorem finishFrame_ts0 : (finishFrame s).ts0 = s.ts0 := rfl
@[simp] theorem finishFrame_work : (finishFrame s).work = Work.rest := rfl
@[simp] theorem finishFrame_input : (finishFrame s).input = s.input := rfl
@[simp] theorem finishFrame_out : (finishFrame s).out = some { tStart := s.ts0, tEnd := s.work.tEnd, body := workBody s.work } := rfl

end

section
variable (s : State)

@[simp] theorem popEvent_params : (popEvent s).params = s.params := rfl
@[simp] theorem popEvent_st : (popEvent s).st = s.st := rfl
@[simp] theorem popEvent_buf : (popEvent s).buf = s.buf := rfl
@[simp] theorem popEvent_ts0 : (popEvent s).ts0 = s.ts0 := rfl
@[simp] theorem popEvent_work : (popEvent s).work = s.work := rfl
@[simp] theorem popEvent_input : (popEvent s).input = s.input.tail := rfl
@[simp] theorem popEvent_out : (popEvent s).out = s.out := rfl

end

section
variable (s : State)

@[simp] theorem idleStep_params : (idleStep s).params = s.params := rfl
@[simp] theorem idleStep_st : (idleStep s).st = s.st := rfl
@[simp] theorem idleStep_buf : (idleStep s).buf = s.buf := rfl
@[simp] theorem idleStep_ts0 : (idleStep s).ts0 = s.ts0 := rfl
@[simp] theorem idleStep_work : (idleStep s).work = s.work := rfl
@[simp] theorem idleStep_input : (idleStep s).input = s.input := rfl
@[simp] theorem idleStep_out : (idleStep s).out = none := rfl

end

section
variable (s : State)

@[simp] theorem resetEvent_params : (resetEvent s).params = s.params := rfl
@[simp] theorem resetEvent_st : (resetEvent s).st = .idle := rfl
@[simp] theorem resetEvent_buf : (resetEvent s).buf = [] := rfl
@[simp] theorem resetEvent_ts0 : (resetEvent s).ts0 = Config.ts0AtReset := rfl
@[simp] theorem resetEvent_work : (resetEvent s).work = Work.rest := rfl
@[simp] theorem resetEvent_input : (resetEvent s).input = s.input := rfl
@[simp] theorem resetEvent_out : (resetEvent s).out = none := rfl

end

end Sys2Proof.Machine
end

