-- ==== Sys2Proof/Laws/Ops.lean ====
section
/-! SUPPORT. For each shared operation, what it can do, said once. -/

namespace Sys2Proof.Machine

open Sys2Proof.Config (Params)

/-! ## Sequencing -/

@[simp] theorem next_andThen (s : State) (f : State → Result) : andThen (.next s) f = f s := rfl

theorem andThen_eq_next (r : Result) (f : State → Result) (t : State) :
    andThen r f = .next t ↔ ∃ s, r = .next s ∧ f s = .next t := by
  cases r <;> simp [andThen]

/-! ## RAW -/

theorem hasRoom_iff (s : State) : hasRoom s = true ↔ ∀ cap, s.params.bufCap = some cap → s.buf.length < cap := by
  unfold hasRoom
  cases s.params.bufCap <;> simp

/-- The append is read back where it was stored, and every other index reads as before (R56). -/
theorem readByte_appendByte (b : Byte) (s : State) :
    readByte (appendByte b s).buf (appendAddress s) = some b ∧
    ∀ a, a ≠ appendAddress s → readByte (appendByte b s).buf a = readByte s.buf a := by
  unfold readByte appendAddress
  refine ⟨by simp, fun a h => ?_⟩
  rw [appendByte_buf]
  rcases Nat.lt_or_gt_of_ne h with h | h
  · rw [List.getElem?_append_left h]
  · rw [List.getElem?_eq_none (by simp; omega), List.getElem?_eq_none (by omega)]

theorem memory_wf_iff (cap : Option Nat) (m : Memory) :
    Memory.wf cap m = true ↔ Config.delim ∉ m ∧ ∀ c, cap = some c → m.length ≤ c := by
  cases cap <;> simp [Memory.wf]

@[simp] theorem memory_wf_nil (cap : Option Nat) : Memory.wf cap [] = true := by
  cases cap <;> simp [Memory.wf]

/-- The clears keep the form of `BUF`, and so does an append of a byte that is no delimiter, where there is room. -/
theorem appendByte_keeps_wf (b : Byte) (s : State) (hb : b ≠ Config.delim) (hr : hasRoom s = true)
    (h : Memory.wf s.params.bufCap s.buf = true) :
    Memory.wf (appendByte b s).params.bufCap (appendByte b s).buf = true := by
  rw [memory_wf_iff] at h ⊢
  rw [hasRoom_iff] at hr
  refine ⟨?_, fun c hc => ?_⟩
  · rw [appendByte_buf, List.mem_append, List.mem_singleton]
    rintro (h' | h')
    · exact h.1 h'
    · exact hb h'.symm
  have := hr c hc
  simp
  omega

theorem resetWith_memory_wf (p : Params) : Memory.wf p.bufCap (State.resetWith p).buf = true := memory_wf_nil _

/-! ## Reading the unescaped frame -/

theorem readByte_eq_none_iff (m : Memory) (a : Nat) : readByte m a = none ↔ m.length ≤ a := by
  simp [readByte]

theorem memRead_succ (m : Memory) (a n : Nat) (b : Byte) (v : Nat) (hb : readByte m a = some b)
    (hv : memRead m (a + 1) n = some v) : memRead m a (n + 1) = some (b.toNat + 256 * v) := by
  simp [memRead, hb, hv]

theorem quadWord_toNat (q : Quad) :
    (quadWord q).toNat = q.b0.toNat + 2 ^ 8 * q.b1.toNat + 2 ^ 16 * q.b2.toNat + 2 ^ 24 * q.b3.toNat := by
  have h0 := q.b0.isLt
  have h1 := q.b1.isLt
  have h2 := q.b2.isLt
  have h3 := q.b3.isLt
  simp only [quadWord, BitVec.toNat_append]
  rw [← Nat.shiftLeft_add_eq_or_of_lt (by omega), ← Nat.shiftLeft_add_eq_or_of_lt (by omega),
    ← Nat.shiftLeft_add_eq_or_of_lt (by omega)]
  simp only [Nat.shiftLeft_eq]
  omega

/-- A frame with a complete header (R162). -/
theorem parseHeader_cons (d c s0 s1 f0 f1 f2 f3 : Byte) (p : Memory) :
    parseHeader (d :: c :: s0 :: s1 :: f0 :: f1 :: f2 :: f3 :: p) =
      some { dir := d, cmd := c, size := BitVec.ofNat 16 (s0.toNat + 256 * s1.toNat)
             fld := ⟨f0, f1, f2, f3⟩, payload := p } := by
  simp [parseHeader, memRead, readByte]

/-- A list is shorter than a header, or has its eight bytes. -/
theorem header_or_short (u : Memory) :
    u.length < 8 ∨ ∃ d c s0 s1 f0 f1 f2 f3 p, u = d :: c :: s0 :: s1 :: f0 :: f1 :: f2 :: f3 :: p := by
  match u with
  | [] | [_] | [_, _] | [_, _, _] | [_, _, _, _] | [_, _, _, _, _] | [_, _, _, _, _, _]
  | [_, _, _, _, _, _, _] => left; simp
  | d :: c :: s0 :: s1 :: f0 :: f1 :: f2 :: f3 :: p => right; exact ⟨d, c, s0, s1, f0, f1, f2, f3, p, rfl⟩

/-- A frame with no complete header (R161). -/
theorem parseHeader_short (u : Memory) (h : u.length < 8) : parseHeader u = none := by
  have h7 : readByte u 7 = none := (readByte_eq_none_iff u 7).2 (by omega)
  simp only [parseHeader, h7]
  cases memRead u 0 1 <;> cases memRead u 1 1 <;> cases memRead u 2 2 <;> cases readByte u 4 <;>
    cases readByte u 5 <;> cases readByte u 6 <;> rfl

/-! ## The stages of a decode -/

theorem endScan_short (s : State) (h : s.work.u.length < 8) : endScan s = raiseError .decodeFault s := by
  simp [endScan, parseHeader_short _ h]

theorem endScan_header (s : State) (h : Header) (hp : parseHeader s.work.u = some h) : endScan s = loadHeader h s := by
  simp [endScan, hp]

/-- The verification is made (R190). -/
theorem checksum_verified (p : Params) (c : Byte) (f : BitVec 32) (m : Memory) (hc : c ∈ p.cksumSet)
    (hm : 16 ≤ m.length) : checksum p c f m =
      { acc := checksumFold (m.drop 16), checked := true
        mismatch := (checksumFold (m.drop 16)).zeroExtend 32 != f, computed := checksumFold (m.drop 16) } := by
  simp [checksum, commandCk, hc, hm]

/-- The verification is not made (R190, R193). -/
theorem checksum_skipped (p : Params) (c : Byte) (f : BitVec 32) (m : Memory) (h : c ∉ p.cksumSet ∨ m.length < 16) :
    checksum p c f m = { acc := 0xEF, checked := false, mismatch := false, computed := 0x00 } := by
  have : ¬ (c ∈ p.cksumSet ∧ 16 ≤ m.length) := by
    rintro ⟨h1, h2⟩
    rcases h with h | h
    · exact h h1
    · omega
  simp [checksum, commandCk]
  intro h1
  exact Nat.lt_of_not_le fun h2 => this ⟨h1, h2⟩

/-! ## Fetching -/

theorem fetch_feed (s : State) (b : Byte) (tsS tsE : Timestamp) (rest : List HostEvent) (hp : s.work.phase = .rest)
    (hi : s.input = .feed b tsS tsE :: rest) : fetch s = .operation (.sb s.st s.buf.length tsS tsE) b := by
  simp [fetch, hp, hi]

theorem fetch_reset (s : State) (rest : List HostEvent) (hp : s.work.phase = .rest)
    (hi : s.input = .reset :: rest) : fetch s = .resetNext := by
  simp [fetch, hp, hi]

theorem fetch_waiting (s : State) (hp : s.work.phase = .rest) (hi : s.input = []) : fetch s = .waiting := by
  simp [fetch, hp, hi]

theorem beforeExec_rest (s : State) (hp : s.work.phase = .rest) :
    beforeExec s = { s with input := s.input.tail, out := none } := by
  simp [beforeExec, hp, idleStep, popEvent]

end Sys2Proof.Machine
end

