-- ==== Sys2Proof/Laws/PerInstr.lean ====
section
/-! SUPPORT. One fact about every operation as syntax: its byte, in a context that its row of the opcode table admits, selects
it. -/

namespace Sys2Proof.Laws

/-- A well-formed operation has a context that its row admits, in which its one byte decodes to it (R82, R83, R88, R90). -/
def EncodingFitsRow.Statement (i : Instr) : Prop :=
  i.wellFormed = true → ∃ c, i.admits c = true ∧ decodeBytes c (encode i) = .ok (i, [])

/-- The shape of every proof below: a context, the row's conditions, and what the decoder selects. -/
theorem EncodingFitsRow.of_decode (i : Instr) (c : Context) (ha : i.admits c = true)
    (hd : i.wellFormed = true → decode c (encodeByte i) = i) : EncodingFitsRow.Statement i :=
  fun hw => ⟨c, ha, by simp only [decodeBytes, encode, hd hw]⟩

theorem commandRows_lookup_unmapped : ∀ c : Byte, c ∉ commandIds → commandRows.lookup c = none := by decide

theorem EncodingFitsRow.ne_of_bne {a b : Byte} (h : (a != b) = true) : ¬a = b := by simpa using h

theorem EncodingFitsRow.frOpen (t : Timestamp) : EncodingFitsRow.Statement (.frOpen t) :=
  of_decode _ (.sb .idle 0 t t) (by simp [Instr.admits, Context.isStream, Context.startsAt]) fun _ => rfl

theorem EncodingFitsRow.frCloseDiscard : EncodingFitsRow.Statement .frCloseDiscard :=
  of_decode _ (.sb .inFrame 7 ⟨0⟩ ⟨0⟩) rfl fun _ => rfl

theorem EncodingFitsRow.frCloseEmit (t : Timestamp) : EncodingFitsRow.Statement (.frCloseEmit t) :=
  of_decode _ (.sb .inFrame 8 t t) (by simp [Instr.admits, Context.isStream, Context.endsAt]) fun _ => rfl

theorem EncodingFitsRow.frAppend (b : Byte) : EncodingFitsRow.Statement (.frAppend b) :=
  of_decode _ (.sb .inFrame 0 ⟨0⟩ ⟨0⟩) rfl fun h => if_neg (ne_of_bne h)

theorem EncodingFitsRow.frIgnore (b : Byte) : EncodingFitsRow.Statement (.frIgnore b) :=
  of_decode _ (.sb .idle 0 ⟨0⟩ ⟨0⟩) rfl fun h => if_neg (ne_of_bne h)

theorem EncodingFitsRow.ueEnd : EncodingFitsRow.Statement .ueEnd :=
  of_decode _ (.rb true) rfl fun _ => rfl

theorem EncodingFitsRow.ueEsc : EncodingFitsRow.Statement .ueEsc :=
  of_decode _ (.rb true) rfl fun _ => rfl

theorem EncodingFitsRow.ueDrop (x : Byte) : EncodingFitsRow.Statement (.ueDrop x) :=
  of_decode _ (.rb true) rfl fun h => by
    obtain ⟨h1, h2⟩ := (Bool.and_eq_true _ _).mp h
    show decodeRaw true x = .ueDrop x
    rw [decodeRaw, if_pos rfl, if_neg (ne_of_bne h1), if_neg (ne_of_bne h2)]

theorem EncodingFitsRow.ueMark : EncodingFitsRow.Statement .ueMark :=
  of_decode _ (.rb false) rfl fun _ => rfl

theorem EncodingFitsRow.ueLit (x : Byte) : EncodingFitsRow.Statement (.ueLit x) :=
  of_decode _ (.rb false) rfl fun h => if_neg (ne_of_bne h)

theorem EncodingFitsRow.dirReq : EncodingFitsRow.Statement .dirReq :=
  of_decode _ .dir rfl fun _ => rfl

theorem EncodingFitsRow.dirResp : EncodingFitsRow.Statement .dirResp :=
  of_decode _ .dir rfl fun _ => rfl

theorem EncodingFitsRow.dirInvalid (d : Byte) : EncodingFitsRow.Statement (.dirInvalid d) :=
  of_decode _ .dir rfl fun h => by
    obtain ⟨h1, h2⟩ := (Bool.and_eq_true _ _).mp h
    exact (if_neg (ne_of_bne h1)).trans (if_neg (ne_of_bne h2))

theorem EncodingFitsRow.flashBegin : EncodingFitsRow.Statement .flashBegin :=
  of_decode _ .cmd rfl fun _ => rfl

theorem EncodingFitsRow.flashData : EncodingFitsRow.Statement .flashData :=
  of_decode _ .cmd rfl fun _ => rfl

theorem EncodingFitsRow.flashEnd : EncodingFitsRow.Statement .flashEnd :=
  of_decode _ .cmd rfl fun _ => rfl

theorem EncodingFitsRow.memBegin : EncodingFitsRow.Statement .memBegin :=
  of_decode _ .cmd rfl fun _ => rfl

theorem EncodingFitsRow.memEnd : EncodingFitsRow.Statement .memEnd :=
  of_decode _ .cmd rfl fun _ => rfl

theorem EncodingFitsRow.memData : EncodingFitsRow.Statement .memData :=
  of_decode _ .cmd rfl fun _ => rfl

theorem EncodingFitsRow.sync : EncodingFitsRow.Statement .sync :=
  of_decode _ .cmd rfl fun _ => rfl

theorem EncodingFitsRow.writeReg : EncodingFitsRow.Statement .writeReg :=
  of_decode _ .cmd rfl fun _ => rfl

theorem EncodingFitsRow.readReg : EncodingFitsRow.Statement .readReg :=
  of_decode _ .cmd rfl fun _ => rfl

theorem EncodingFitsRow.spiSetParams : EncodingFitsRow.Statement .spiSetParams :=
  of_decode _ .cmd rfl fun _ => rfl

theorem EncodingFitsRow.spiAttach : EncodingFitsRow.Statement .spiAttach :=
  of_decode _ .cmd rfl fun _ => rfl

theorem EncodingFitsRow.readFlashSlow : EncodingFitsRow.Statement .readFlashSlow :=
  of_decode _ .cmd rfl fun _ => rfl

theorem EncodingFitsRow.changeBaudrate : EncodingFitsRow.Statement .changeBaudrate :=
  of_decode _ .cmd rfl fun _ => rfl

theorem EncodingFitsRow.flashDeflBegin : EncodingFitsRow.Statement .flashDeflBegin :=
  of_decode _ .cmd rfl fun _ => rfl

theorem EncodingFitsRow.flashDeflData : EncodingFitsRow.Statement .flashDeflData :=
  of_decode _ .cmd rfl fun _ => rfl

theorem EncodingFitsRow.flashDeflEnd : EncodingFitsRow.Statement .flashDeflEnd :=
  of_decode _ .cmd rfl fun _ => rfl

theorem EncodingFitsRow.spiFlashMd5 : EncodingFitsRow.Statement .spiFlashMd5 :=
  of_decode _ .cmd rfl fun _ => rfl

theorem EncodingFitsRow.getSecurityInfo : EncodingFitsRow.Statement .getSecurityInfo :=
  of_decode _ .cmd rfl fun _ => rfl

theorem EncodingFitsRow.eraseFlash : EncodingFitsRow.Statement .eraseFlash :=
  of_decode _ .cmd rfl fun _ => rfl

theorem EncodingFitsRow.eraseRegion : EncodingFitsRow.Statement .eraseRegion :=
  of_decode _ .cmd rfl fun _ => rfl

theorem EncodingFitsRow.readFlash : EncodingFitsRow.Statement .readFlash :=
  of_decode _ .cmd rfl fun _ => rfl

theorem EncodingFitsRow.runUserCode : EncodingFitsRow.Statement .runUserCode :=
  of_decode _ .cmd rfl fun _ => rfl

theorem EncodingFitsRow.cmdUnknown (c : Byte) : EncodingFitsRow.Statement (.cmdUnknown c) :=
  of_decode _ .cmd rfl fun h => by
    have hc : c ∉ commandIds := by simpa [Instr.wellFormed] using h
    simp only [decode, decodeCommand, encodeByte, commandRows_lookup_unmapped c hc, Option.getD_none]

end Sys2Proof.Laws
end

