-- ==== Sys2Proof/Laws/Rendering.lean ====
section
/-! SUPPORT. What the rendering functions can do, said once. -/

namespace Sys2Proof.Machine

open Sys2Proof.Config (Params LinePart)

@[simp] theorem checksumNote_none (k : Packet) (h : k.ckMismatch = false) : checksumNote k = "" := by
  simp [checksumNote, h]

@[simp] theorem payloadParts_nil (k : Packet) (h : k.payload = []) : payloadParts k = [] := by
  simp [payloadParts, h]

@[simp] theorem lengthParts_none (k : Packet) (h : k.lenMismatch = false) : lengthParts k = [] := by
  simp [lengthParts, h]

/-- The text of a part stands whole in the joined line, with the parts before it on its left and those after on its right. -/
theorem joinParts_contains (left : List (LinePart × String)) (part : LinePart) (text : String)
    (right : List (LinePart × String)) (start : Option LinePart) :
    ∃ before, joinParts start (left ++ (part, text) :: right) = before ++ text ++ joinParts (some part) right := by
  induction left generalizing start with
  | nil => exact ⟨Config.gap start (some part), rfl⟩
  | cons q left ih =>
    obtain ⟨before, h⟩ := ih (some q.1)
    refine ⟨Config.gap start (some q.1) ++ q.2 ++ before, ?_⟩
    simp only [List.cons_append, joinParts, h, String.append_assoc]

end Sys2Proof.Machine
end

