-- ==== Sys2Proof/Tests/Slice0.lean ====
section
/-! SUPPORT. Tests: ill-formed terms refused, decoding against bytes written out from the spec's encodings, one step of every
operation against the spec's examples and vectors (95_test_vectors.md), and a witness for the hypotheses of every obligation
that has some. Expected values are the spec's. -/

namespace Sys2Proof.Tests

open Sys2Proof Sys2Proof.Machine Sys2Proof.Safety
open Sys2Proof.Config (Params)

/-! ## Ill-formed terms -/

theorem test_illFormed_frAppend_delimiter : Instr.wellFormed (.frAppend 0xC0) = false := by decide

theorem test_illFormed_frIgnore_delimiter : Instr.wellFormed (.frIgnore 0xC0) = false := by decide

theorem test_illFormed_ueDrop_escEnd : Instr.wellFormed (.ueDrop 0xDC) = false := by decide

theorem test_illFormed_ueDrop_escEsc : Instr.wellFormed (.ueDrop 0xDD) = false := by decide

theorem test_illFormed_ueLit_escape : Instr.wellFormed (.ueLit 0xDB) = false := by decide

theorem test_illFormed_dirInvalid_request : Instr.wellFormed (.dirInvalid 0x00) = false := by decide

theorem test_illFormed_dirInvalid_response : Instr.wellFormed (.dirInvalid 0x01) = false := by decide

theorem test_illFormed_cmdUnknown_sync : Instr.wellFormed (.cmdUnknown 0x08) = false := by decide

theorem test_illFormed_params_no_0x03 : Config.Params.wellFormed { defaultParams with cksumSet := [0x02, 0x07, 0x11] } = false := by decide

theorem test_illFormed_params_two_members : Config.Params.wellFormed { defaultParams with cksumSet := [0x03, 0x07] } = false := by decide

theorem test_illFormed_params_repeated_member : Config.Params.wellFormed { defaultParams with cksumSet := [0x03, 0x07, 0x07] } = false := by decide

theorem test_illFormed_params_sync_checksummed : Config.Params.wellFormed { defaultParams with cksumSet := [0x03, 0x07, 0x08] } = false := by decide

theorem test_illFormed_params_repeated_key : Config.Params.wellFormed { defaultParams with cmdTable := [(0x08, "SYNC"), (0x02, "A"), (0x02, "B")] } = false := by decide

theorem test_illFormed_params_sync_unnamed : Config.Params.wellFormed { defaultParams with cmdTable := [(0x02, "FLASH_BEGIN")] } = false := by decide

theorem test_illFormed_params_sync_renamed : Config.Params.wellFormed { defaultParams with cmdTable := [(0x08, "SYNCH")] } = false := by decide

/-! ## Decoding: bytes written out bit by bit from R82, R83, R88 and R90 -/

theorem test_decode_frOpen : decodeBytes (.sb .idle 0 ⟨3⟩ ⟨4⟩) [0b11000000, 0x99] = .ok (.frOpen ⟨3⟩, [0x99]) := rfl

theorem test_decode_frCloseDiscard : decodeBytes (.sb .inFrame 7 ⟨3⟩ ⟨4⟩) [0b11000000, 0x99] = .ok (.frCloseDiscard, [0x99]) := rfl

theorem test_decode_frCloseEmit : decodeBytes (.sb .inFrame 8 ⟨3⟩ ⟨4⟩) [0b11000000, 0x99] = .ok (.frCloseEmit ⟨4⟩, [0x99]) := rfl

theorem test_decode_frAppend : decodeBytes (.sb .inFrame 8 ⟨3⟩ ⟨4⟩) [0b11011011, 0x99] = .ok (.frAppend 0xDB, [0x99]) := rfl

theorem test_decode_frIgnore : decodeBytes (.sb .idle 0 ⟨3⟩ ⟨4⟩) [0b01010101, 0x99] = .ok (.frIgnore 0x55, [0x99]) := rfl

theorem test_decode_ueEnd : decodeBytes (.rb true) [0b11011100, 0x99] = .ok (.ueEnd, [0x99]) := rfl

theorem test_decode_ueEsc : decodeBytes (.rb true) [0b11011101, 0x99] = .ok (.ueEsc, [0x99]) := rfl

theorem test_decode_ueDrop : decodeBytes (.rb true) [0b11011011, 0x99] = .ok (.ueDrop 0xDB, [0x99]) := rfl

theorem test_decode_ueMark : decodeBytes (.rb false) [0b11011011, 0x99] = .ok (.ueMark, [0x99]) := rfl

theorem test_decode_ueLit : decodeBytes (.rb false) [0b11011100, 0x99] = .ok (.ueLit 0xDC, [0x99]) := rfl

theorem test_decode_dirReq : decodeBytes .dir [0b00000000, 0x99] = .ok (.dirReq, [0x99]) := rfl

theorem test_decode_dirResp : decodeBytes .dir [0b00000001, 0x99] = .ok (.dirResp, [0x99]) := rfl

theorem test_decode_dirInvalid : decodeBytes .dir [0b11111111, 0x99] = .ok (.dirInvalid 0xFF, [0x99]) := rfl

theorem test_decode_flashBegin : decodeBytes .cmd [0b00000010, 0x99] = .ok (.flashBegin, [0x99]) := rfl

theorem test_decode_flashData : decodeBytes .cmd [0b00000011, 0x99] = .ok (.flashData, [0x99]) := rfl

theorem test_decode_flashEnd : decodeBytes .cmd [0b00000100, 0x99] = .ok (.flashEnd, [0x99]) := rfl

theorem test_decode_memBegin : decodeBytes .cmd [0b00000101, 0x99] = .ok (.memBegin, [0x99]) := rfl

theorem test_decode_memEnd : decodeBytes .cmd [0b00000110, 0x99] = .ok (.memEnd, [0x99]) := rfl

theorem test_decode_memData : decodeBytes .cmd [0b00000111, 0x99] = .ok (.memData, [0x99]) := rfl

theorem test_decode_sync : decodeBytes .cmd [0b00001000, 0x99] = .ok (.sync, [0x99]) := rfl

theorem test_decode_writeReg : decodeBytes .cmd [0b00001001, 0x99] = .ok (.writeReg, [0x99]) := rfl

theorem test_decode_readReg : decodeBytes .cmd [0b00001010, 0x99] = .ok (.readReg, [0x99]) := rfl

theorem test_decode_spiSetParams : decodeBytes .cmd [0b00001011, 0x99] = .ok (.spiSetParams, [0x99]) := rfl

theorem test_decode_spiAttach : decodeBytes .cmd [0b00001101, 0x99] = .ok (.spiAttach, [0x99]) := rfl

theorem test_decode_readFlashSlow : decodeBytes .cmd [0b00001110, 0x99] = .ok (.readFlashSlow, [0x99]) := rfl

theorem test_decode_changeBaudrate : decodeBytes .cmd [0b00001111, 0x99] = .ok (.changeBaudrate, [0x99]) := rfl

theorem test_decode_flashDeflBegin : decodeBytes .cmd [0b00010000, 0x99] = .ok (.flashDeflBegin, [0x99]) := rfl

theorem test_decode_flashDeflData : decodeBytes .cmd [0b00010001, 0x99] = .ok (.flashDeflData, [0x99]) := rfl

theorem test_decode_flashDeflEnd : decodeBytes .cmd [0b00010010, 0x99] = .ok (.flashDeflEnd, [0x99]) := rfl

theorem test_decode_spiFlashMd5 : decodeBytes .cmd [0b00010011, 0x99] = .ok (.spiFlashMd5, [0x99]) := rfl

theorem test_decode_getSecurityInfo : decodeBytes .cmd [0b00010100, 0x99] = .ok (.getSecurityInfo, [0x99]) := rfl

theorem test_decode_eraseFlash : decodeBytes .cmd [0b11010000, 0x99] = .ok (.eraseFlash, [0x99]) := rfl

theorem test_decode_eraseRegion : decodeBytes .cmd [0b11010001, 0x99] = .ok (.eraseRegion, [0x99]) := rfl

theorem test_decode_readFlash : decodeBytes .cmd [0b11010010, 0x99] = .ok (.readFlash, [0x99]) := rfl

theorem test_decode_runUserCode : decodeBytes .cmd [0b11010011, 0x99] = .ok (.runUserCode, [0x99]) := rfl

theorem test_decode_cmdUnknown : decodeBytes .cmd [0b00001100, 0x99] = .ok (.cmdUnknown 0x0C, [0x99]) := rfl

/-- There is no operation without a byte. -/
theorem test_decode_noByte : decodeBytes .cmd [] = .error .noByte := rfl

/-! ## The table's words, and a step on each as the first operation after reset -/

/-- 0 for a next state, 1 for a fault, 2 for a refusal. -/
def outcomeCode (r : Result) : Nat :=
  match r with
  | .next _ => 0
  | .fault _ => 1
  | .refused _ => 2

theorem test_tableWord_open : decodeTableWord 8 0xC0 = some (.frOpen ⟨0⟩) := rfl

theorem test_tableWord_ignore : decodeTableWord 0 0x00 = some (.frIgnore 0x00) := rfl

theorem test_tableWord_mark : decodeTableWord 8 0xDB = some .ueMark := rfl

theorem test_tableWord_end : decodeTableWord 8 0xDC = some .ueEnd := rfl

theorem test_tableWord_response : decodeTableWord 8 0x01 = some .dirResp := rfl

theorem test_tableWord_runUserCode : decodeTableWord 8 0xD3 = some .runUserCode := rfl

/-- No operation has more than 8 bits. -/
theorem test_tableWord_tooLong : decodeTableWord 16 0x00C0 = none := rfl

theorem test_fetchWord_runs : ([0xC0, 0xDB, 0xDC, 0xDD, 0x00, 0x01] ++ [0x02, 0x03, 0x07, 0x08, 0x0A, 0x0C, 0x11, 0xD3]).all
    (fun w => outcomeCode (step (State.reset.withFetchWord 8 w)) == 0) = true := by decide

theorem test_fetchWord_open : step (State.reset.withFetchWord 8 0xC0) =
    exec (.frOpen ⟨0⟩) (beforeExec (State.reset.withFetchWord 8 0xC0)) := rfl

theorem test_fetchWord_command : step (State.reset.withFetchWord 8 0xD3) = exec .runUserCode (State.reset.withFetchWord 8 0xD3) := rfl

/-! ## One step of each operation -/

/-- The block in `Idle`. -/
def idle : State := { State.reset with ts0 := ⟨0⟩ }

/-- The block with this frame open since time 5. -/
def openWith (bytes : List Byte) : State := { idle with st := .inFrame, buf := bytes, ts0 := ⟨5⟩ }

/-- A scan that stands before its second byte. -/
def scanning (ep : Bool) (u : List Byte) : State :=
  { openWith [0x41, 0x42] with work := { Work.rest with phase := .scan, ep := ep, pos := 1, u := u } }

/-- A parsed header: this identifier, size 4, field `78 56 34 12`, four payload bytes. -/
def parsed (cmd : Byte) : State :=
  { openWith [] with work := { Work.rest with
      phase := .dir, cmd := cmd, size := 4, fld := ⟨0x78, 0x56, 0x34, 0x12⟩, payload := [0, 0, 0, 0] } }

/-- The framer's state and buffer after an operation. -/
def framer (r : Result) : Option (FramerState × List Byte × Timestamp) :=
  match r with
  | .next s => some (s.st, s.buf, s.ts0)
  | .fault _ => none
  | .refused _ => none

/-- `ep`, `i` and `out` after an operation of the scan. -/
def scanState (r : Result) : Option (Bool × Nat × List Byte) :=
  match r with
  | .next s => some (s.work.ep, s.work.pos, s.work.u)
  | .fault _ => none
  | .refused _ => none

/-- The direction-specific field after a direction operation. -/
def shown (r : Result) : Option (Bool × FldSel × Quad × Phase) :=
  match r with
  | .next s => some (s.work.isResp, s.work.fldSel, s.work.fldOut, s.work.phase)
  | .fault _ => none
  | .refused _ => none

/-- The record that closing this frame at time 9 emits, in one step. -/
def closed (bytes : List Byte) : Option Record :=
  match exec (.frCloseEmit ⟨9⟩) (openWith bytes) with
  | .next s => s.out
  | .fault _ => none
  | .refused _ => none

/-- Of a packet record: command, known, size, `plen`, length mismatch. -/
def lengths (r : Option Record) : Option (Byte × Bool × Nat × Nat × Bool) :=
  match r with
  | some { tStart := _, tEnd := _, body := .packet k } => some (k.cmd, k.cmdKnown, k.size.toNat, k.plen, k.lenMismatch)
  | _ => none

/-- Of a packet record: checked, mismatch, computed value. -/
def sums (r : Option Record) : Option (Bool × Bool × Byte) :=
  match r with
  | some { tStart := _, tEnd := _, body := .packet k } => some (k.ckChecked, k.ckMismatch, k.ckCalc)
  | _ => none

/-- Of a packet record: response, selector, shown field, received field. -/
def fields (r : Option Record) : Option (Bool × FldSel × Quad × Quad) :=
  match r with
  | some { tStart := _, tEnd := _, body := .packet k } => some (k.isResp, k.fldSel, k.fldOut, k.fld)
  | _ => none

/-- Sixteen zero bytes (`Z16` of the vectors). -/
def z16 : List Byte := [0, 0, 0, 0, 0, 0, 0, 0] ++ [0, 0, 0, 0, 0, 0, 0, 0]

/-- R121. -/
theorem test_exec_frOpen : framer (exec (.frOpen ⟨7⟩) (openWith [])) = some (.inFrame, [], ⟨7⟩) := by decide

/-- R122, the example; `TS0` stays. -/
theorem test_exec_frCloseDiscard : framer (exec .frCloseDiscard (openWith [0x00, 0x08, 0x00, 0x00, 0xEF, 0x00, 0x00])) = some (.idle, [], ⟨5⟩) := by decide

/-- R123. -/
theorem test_exec_frCloseEmit : framer (exec (.frCloseEmit ⟨9⟩) (openWith [0x00, 0x08, 0x00, 0x00, 0xEF, 0x00, 0x00, 0x00])) = some (.idle, [], ⟨5⟩) := by decide

/-- S1, the source's scenario. -/
theorem test_exec_frCloseEmit_record : closed [0x00, 0x08, 0x00, 0x00, 0xEF, 0x00, 0x00, 0x00] = some
    { tStart := ⟨5⟩, tEnd := ⟨9⟩, body := .packet
        { isResp := false, cmd := 0x08, cmdKnown := true, size := 0, fld := ⟨0xEF, 0, 0, 0⟩, fldSel := .checksum
          fldOut := ⟨0xEF, 0, 0, 0⟩, payload := [], lenMismatch := false, ckChecked := false, ckMismatch := false
          ckCalc := 0 } } := by decide

/-- R124, the example. -/
theorem test_exec_frAppend : framer (exec (.frAppend 0xDB) (openWith [0x00])) = some (.inFrame, [0x00, 0xDB], ⟨5⟩) := by decide

/-- U9: the buffer is full. -/
theorem test_exec_frAppend_full : outcomeCode (exec (.frAppend 0x01) { openWith [0x00] with params := { defaultParams with bufCap := some 1 } }) = 2 := by decide

/-- R125, the example. -/
theorem test_exec_frIgnore : framer (exec (.frIgnore 0x55) idle) = some (.idle, [], ⟨0⟩) := by decide

/-- R141, the example. -/
theorem test_exec_ueEnd : scanState (exec .ueEnd (scanning true [])) = some (false, 2, [0xC0]) := by decide

/-- R142, the example. -/
theorem test_exec_ueEsc : scanState (exec .ueEsc (scanning true [])) = some (false, 2, [0xDB]) := by decide

/-- R143, the example. -/
theorem test_exec_ueDrop : scanState (exec (.ueDrop 0x41) (scanning true [])) = some (false, 2, []) := by decide

/-- R144, the example. -/
theorem test_exec_ueMark : scanState (exec .ueMark (scanning false [0x41])) = some (true, 2, [0x41]) := by decide

/-- R145, the example. -/
theorem test_exec_ueLit : scanState (exec (.ueLit 0x01) (scanning false [])) = some (false, 2, [0x01]) := by decide

/-- R163. -/
theorem test_exec_dirReq : shown (exec .dirReq (parsed 0x0A)) = some (false, .checksum, ⟨0x78, 0x56, 0x34, 0x12⟩, .cmd) := by decide

/-- R164, the register-read command. -/
theorem test_exec_dirResp_value : shown (exec .dirResp (parsed 0x0A)) = some (true, .value, ⟨0x78, 0x56, 0x34, 0x12⟩, .cmd) := by decide

/-- R164, any other command. -/
theorem test_exec_dirResp_placeholder : shown (exec .dirResp (parsed 0x08)) = some (true, .placeholder, ⟨0, 0, 0, 0⟩, .cmd) := by decide

/-- P5, S8. -/
theorem test_exec_dirInvalid : closed [0x02, 0x08, 0x00, 0x00, 0x00, 0x00, 0x00, 0x00] = some { tStart := ⟨5⟩, tEnd := ⟨9⟩, body := .badDirection } := by decide

/-- P11b: 8 raw bytes, 7 unescaped; the direction byte is not looked at. -/
theorem test_short_before_direction : closed [0x02, 0x08, 0x00, 0x00, 0xDB, 0xDC, 0x00, 0x00] = some { tStart := ⟨5⟩, tEnd := ⟨9⟩, body := .decodeFault } := by decide

/-- R196, the example. -/
theorem test_exec_flashBegin : lengths (closed [0x00, 0x02, 0x00, 0x00, 0x00, 0x00, 0x00, 0x00]) = some (0x02, true, 0, 0, false) := by decide

/-- R198, the example. -/
theorem test_exec_flashEnd : lengths (closed [0x00, 0x04, 0x00, 0x00, 0x00, 0x00, 0x00, 0x00]) = some (0x04, true, 0, 0, false) := by decide

/-- R199, the example. -/
theorem test_exec_memBegin : lengths (closed [0x00, 0x05, 0x00, 0x00, 0x00, 0x00, 0x00, 0x00]) = some (0x05, true, 0, 0, false) := by decide

/-- R200, the example. -/
theorem test_exec_memEnd : lengths (closed [0x00, 0x06, 0x00, 0x00, 0x00, 0x00, 0x00, 0x00]) = some (0x06, true, 0, 0, false) := by decide

/-- R203, the example. -/
theorem test_exec_writeReg : lengths (closed [0x00, 0x09, 0x00, 0x00, 0x00, 0x00, 0x00, 0x00]) = some (0x09, true, 0, 0, false) := by decide

/-- R205, the example. -/
theorem test_exec_spiSetParams : lengths (closed [0x00, 0x0B, 0x00, 0x00, 0x00, 0x00, 0x00, 0x00]) = some (0x0B, true, 0, 0, false) := by decide

/-- R206, the example. -/
theorem test_exec_spiAttach : lengths (closed [0x00, 0x0D, 0x00, 0x00, 0x00, 0x00, 0x00, 0x00]) = some (0x0D, true, 0, 0, false) := by decide

/-- R207, the example. -/
theorem test_exec_readFlashSlow : lengths (closed [0x00, 0x0E, 0x00, 0x00, 0x00, 0x00, 0x00, 0x00]) = some (0x0E, true, 0, 0, false) := by decide

/-- R208, the example. -/
theorem test_exec_changeBaudrate : lengths (closed [0x00, 0x0F, 0x00, 0x00, 0x00, 0x00, 0x00, 0x00]) = some (0x0F, true, 0, 0, false) := by decide

/-- R209, the example. -/
theorem test_exec_flashDeflBegin : lengths (closed [0x00, 0x10, 0x00, 0x00, 0x00, 0x00, 0x00, 0x00]) = some (0x10, true, 0, 0, false) := by decide

/-- R211, the example. -/
theorem test_exec_flashDeflEnd : lengths (closed [0x00, 0x12, 0x00, 0x00, 0x00, 0x00, 0x00, 0x00]) = some (0x12, true, 0, 0, false) := by decide

/-- R212, the example. -/
theorem test_exec_spiFlashMd5 : lengths (closed [0x00, 0x13, 0x00, 0x00, 0x00, 0x00, 0x00, 0x00]) = some (0x13, true, 0, 0, false) := by decide

/-- R213, the example. -/
theorem test_exec_getSecurityInfo : lengths (closed [0x00, 0x14, 0x00, 0x00, 0x00, 0x00, 0x00, 0x00]) = some (0x14, true, 0, 0, false) := by decide

/-- R214, the example. -/
theorem test_exec_eraseFlash : lengths (closed [0x00, 0xD0, 0x00, 0x00, 0x00, 0x00, 0x00, 0x00]) = some (0xD0, true, 0, 0, false) := by decide

/-- R215, the example. -/
theorem test_exec_eraseRegion : lengths (closed [0x00, 0xD1, 0x00, 0x00, 0x00, 0x00, 0x00, 0x00]) = some (0xD1, true, 0, 0, false) := by decide

/-- R216, the example. -/
theorem test_exec_readFlash : lengths (closed [0x00, 0xD2, 0x00, 0x00, 0x00, 0x00, 0x00, 0x00]) = some (0xD2, true, 0, 0, false) := by decide

/-- R217, the example. -/
theorem test_exec_runUserCode : lengths (closed [0x00, 0xD3, 0x00, 0x00, 0x00, 0x00, 0x00, 0x00]) = some (0xD3, true, 0, 0, false) := by decide

/-- P16: a command outside `CKSUM_SET` is never verified. -/
theorem test_exec_flashBegin_unchecked : sums (closed ([0x00, 0x02, 0x14, 0x00, 0x00, 0x00, 0x00, 0x00] ++ z16 ++ [1, 2, 3, 4])) = some (false, false, 0) := by decide

/-- P2, with the escapes in the covered bytes. -/
theorem test_exec_flashData : sums (closed ([0x00, 0x03, 0x14, 0x00, 0xC7, 0x00, 0x00, 0x00, 0x04, 0x00, 0x00, 0x00, 0x00, 0x00, 0x00, 0x00] ++
    [0x00, 0x00, 0x00, 0x00, 0x00, 0x00, 0x00, 0x00, 0xDB, 0xDC, 0xDB, 0xDD, 0x11, 0x22])) = some (true, false, 0xC7) := by decide

/-- P2b. -/
theorem test_exec_flashData_mutated : sums (closed ([0x00, 0x03, 0x14, 0x00, 0xC7, 0x00, 0x00, 0x00, 0x04, 0x00, 0x00, 0x00, 0x00, 0x00, 0x00, 0x00] ++
    [0x00, 0x00, 0x00, 0x00, 0x00, 0x00, 0x00, 0x00, 0xDB, 0xDC, 0xDA, 0x11, 0x22])) = some (true, true, 0xC6) := by decide

/-- P8: nothing covered, the seed. -/
theorem test_exec_memData : sums (closed ([0x00, 0x07, 0x10, 0x00, 0xEF, 0x00, 0x00, 0x00] ++ z16)) = some (true, false, 0xEF) := by decide

/-- P9: 15 payload bytes. -/
theorem test_exec_memData_short : sums (closed ([0x00, 0x07, 0x0F, 0x00, 0x00, 0x00, 0x00, 0x00] ++ z16.tail)) = some (false, false, 0) := by decide

/-- P6. -/
theorem test_exec_sync : lengths (closed [0x00, 0x08, 0x05, 0x00, 0x00, 0x00, 0x00, 0x00, 0x01, 0x02, 0x03]) = some (0x08, true, 5, 3, true) := by decide

/-- P4. -/
theorem test_exec_sync_response : fields (closed [0x01, 0x08, 0x04, 0x00, 0x07, 0x07, 0x12, 0x20, 0x00, 0x00, 0x00, 0x00]) =
    some (true, .placeholder, ⟨0, 0, 0, 0⟩, ⟨0x07, 0x07, 0x12, 0x20⟩) := by decide

/-- P3. -/
theorem test_exec_readReg : fields (closed [0x01, 0x0A, 0x04, 0x00, 0x78, 0x56, 0x34, 0x12, 0x00, 0x00, 0x00, 0x00]) =
    some (true, .value, ⟨0x78, 0x56, 0x34, 0x12⟩, ⟨0x78, 0x56, 0x34, 0x12⟩) := by decide

/-- P10. -/
theorem test_exec_flashDeflData : sums (closed ([0x00, 0x11, 0x11, 0x00, 0x10, 0x00, 0x00, 0x00] ++ z16 ++ [0xFF])) = some (true, false, 0x10) := by decide

/-- P7, R218, the example. -/
theorem test_exec_cmdUnknown : lengths (closed [0x00, 0x55, 0x00, 0x00, 0x00, 0x00, 0x00, 0x00]) = some (0x55, false, 0, 0, false) := by decide

/-- R192 (as P2c): a non-zero upper byte of the field. -/
theorem test_upper_field_bytes : sums (closed ([0x00, 0x03, 0x10, 0x00, 0xEF, 0x01, 0x00, 0x00] ++ z16)) = some (true, true, 0xEF) := by decide

/-! ## The scan and the sender's side on the vectors -/

/-- E1 to E19, in part. -/
theorem test_unescape_vectors : unescape [] = [] ∧ unescape [0x01, 0x02] = [0x01, 0x02] ∧ unescape [0xDB, 0xDC] = [0xC0] ∧
    unescape [0x41, 0xDB] = [0x41] ∧ unescape [0xDB, 0xDC, 0xDB, 0xDD] = [0xC0, 0xDB] ∧
    unescape [0xDB, 0xDB, 0xDC] = [0xDC] ∧ unescape [0xDB, 0xDB, 0xDB, 0xDD] = [0xDB] ∧
    unescape [0xC0] = [0xC0] ∧ unescape [0xDB, 0xC0] = [] := by decide

/-- E13. -/
theorem test_marks_and_drops : marksAndDropsFrom false [0xDB, 0xDB, 0xDB, 0xDD] = (2, 1) := by decide

/-- S4. -/
theorem test_frameBytes : frameBytes [0x00, 0x08, 0x00, 0x00, 0xC0, 0x00, 0x00, 0x00] =
    [0xC0, 0x00, 0x08, 0x00, 0x00, 0xDB, 0xDC, 0x00, 0x00, 0x00, 0xC0] := by decide

/-- R94. -/
theorem test_packetBytes : packetBytes 0x00 0x08 ⟨0xEF, 0, 0, 0⟩ [] = [0x00, 0x08, 0x00, 0x00, 0xEF, 0x00, 0x00, 0x00] := by decide

/-! ## Witnesses: a state and operands that meet the hypotheses of each obligation, every clause, at the boundary values -/

/-- The block in `Idle`, with these transactions to come. -/
def fed (es : List HostEvent) : State := { idle with input := es }

/-- A frame open, with these transactions to come. -/
def openFed (bytes : List Byte) (es : List HostEvent) : State := { openWith bytes with input := es }

/-- An open frame whose one-byte buffer is full. -/
def fullFed (es : List HostEvent) : State :=
  { openFed [0x01] es with params := { defaultParams with bufCap := some 1 } }

/-- Eight raw bytes with their timestamps. -/
def eight : List (Byte × Timestamp × Timestamp) :=
  [(0x00, ⟨1⟩, ⟨1⟩), (0x08, ⟨2⟩, ⟨2⟩), (0x00, ⟨3⟩, ⟨3⟩), (0x00, ⟨4⟩, ⟨4⟩)] ++
  [(0xEF, ⟨5⟩, ⟨5⟩), (0x00, ⟨6⟩, ⟨6⟩), (0x00, ⟨7⟩, ⟨7⟩), (0x00, ⟨8⟩, ⟨8⟩)]

/-- The scenario's packet (S1). -/
def scenario : List Byte := [0x00, 0x08, 0x00, 0x00, 0xEF, 0x00, 0x00, 0x00]

/-- A packet of this direction, identifier and payload, with the field `EF 00 00 00` and the size 16. -/
def packetOf (dir cmd : Byte) (payload : List Byte) : List Byte := [dir, cmd, 0x10, 0x00, 0xEF, 0x00, 0x00, 0x00] ++ payload

theorem witness_ResetEventDiscardsOpenFrame :
    AtRest (openFed [0x01] [.reset]) ∧ (openFed [0x01] [.reset]).input = .reset :: [] := ⟨rfl, rfl⟩

theorem witness_WithoutInputTheBlockHolds : AtRest (openWith [0x01]) ∧ (openWith [0x01]).input = [] := ⟨rfl, rfl⟩

theorem witness_StepRunsTheDecodedOperation :
    ((fed [.feed 0x01 ⟨1⟩ ⟨1⟩]).work.phase = .rest ∧ (fed [.feed 0x01 ⟨1⟩ ⟨1⟩]).input = .feed 0x01 ⟨1⟩ ⟨1⟩ :: []) ∧
    ((scanning true []).work.phase = .scan ∧ readByte (scanning true []).buf (scanning true []).work.pos = some 0x42) ∧
    (parsed 0x08).work.phase = .dir ∧ (setDirection false .checksum ⟨0, 0, 0, 0⟩ (parsed 0x08)).work.phase = .cmd ∧
    ((scanOne [] false (scanning true [])).work.phase = .scan ∧
      readByte (scanOne [] false (scanning true [])).buf (scanOne [] false (scanning true [])).work.pos = none) ∧
    (raiseError .badDirection (parsed 0x08)).work.phase = .done := ⟨⟨rfl, rfl⟩, ⟨rfl, rfl⟩, rfl, rfl, ⟨rfl, rfl⟩, rfl⟩

theorem witness_DecodeAndEncodeAgree :
    ((Instr.frCloseEmit ⟨4⟩).wellFormed = true ∧ (Instr.frCloseEmit ⟨4⟩).admits (.sb .inFrame 8 ⟨3⟩ ⟨4⟩) = true) ∧
    (Instr.frCloseDiscard.wellFormed = true ∧ Instr.frCloseDiscard.admits (.sb .inFrame 7 ⟨3⟩ ⟨4⟩) = true) ∧
    ((Instr.ueDrop 0xDB).wellFormed = true ∧ (Instr.ueDrop 0xDB).admits (.rb true) = true) ∧
    ((Instr.cmdUnknown 0xD4).wellFormed = true ∧ (Instr.cmdUnknown 0xD4).admits .cmd = true) := by decide

theorem witness_OpeningDelimiterOpensAFrame :
    (AtRest (fed [.feed 0xC0 ⟨1⟩ ⟨2⟩]) ∧ (fed [.feed 0xC0 ⟨1⟩ ⟨2⟩]).st = .idle ∧
      (fed [.feed 0xC0 ⟨1⟩ ⟨2⟩]).input = .feed 0xC0 ⟨1⟩ ⟨2⟩ :: []) ∧
    0xC0 ∉ bytesOf [(0xDB, ⟨1⟩, ⟨1⟩), (0xDC, ⟨2⟩, ⟨2⟩)] := ⟨⟨rfl, rfl, rfl⟩, by decide⟩

theorem witness_ShortFrameIsDiscarded :
    AtRest (openFed (scenario.take 7) [.feed 0xC0 ⟨1⟩ ⟨2⟩]) ∧ (openFed (scenario.take 7) [.feed 0xC0 ⟨1⟩ ⟨2⟩]).st = .inFrame ∧
    (openFed (scenario.take 7) [.feed 0xC0 ⟨1⟩ ⟨2⟩]).buf.length < 8 ∧
    (openFed (scenario.take 7) [.feed 0xC0 ⟨1⟩ ⟨2⟩]).input = .feed 0xC0 ⟨1⟩ ⟨2⟩ :: [] := ⟨rfl, rfl, by decide, rfl⟩

theorem witness_ClosingDelimiterEmitsTheDecodedFrame :
    AtRest (openFed scenario [.feed 0xC0 ⟨1⟩ ⟨2⟩]) ∧ (openFed scenario [.feed 0xC0 ⟨1⟩ ⟨2⟩]).st = .inFrame ∧
    8 ≤ (openFed scenario [.feed 0xC0 ⟨1⟩ ⟨2⟩]).buf.length ∧
    (openFed scenario [.feed 0xC0 ⟨1⟩ ⟨2⟩]).input = .feed 0xC0 ⟨1⟩ ⟨2⟩ :: [] := ⟨rfl, rfl, by decide, rfl⟩

theorem witness_ByteInAFrameIsAppended :
    (openWith [0x01]).params.bufCap = none ∧
    ({ openWith [0x01] with params := { defaultParams with bufCap := some 2 } } : State).buf.length < 2 ∧
    ((fullFed []).params.bufCap = some 1 ∧ 1 ≤ (fullFed []).buf.length) ∧ (0xDB : Byte) ≠ 0xC0 := by decide

theorem witness_ByteOutsideAFrameIsIgnored :
    AtRest (fed [.feed 0xDB ⟨1⟩ ⟨2⟩]) ∧ (fed [.feed 0xDB ⟨1⟩ ⟨2⟩]).st = .idle ∧ (0xDB : Byte) ≠ 0xC0 ∧
    (fed [.feed 0xDB ⟨1⟩ ⟨2⟩]).input = .feed 0xDB ⟨1⟩ ⟨2⟩ :: [] := ⟨rfl, rfl, by decide, rfl⟩

theorem witness_OnlyStoreIsTheAppend :
    (∃ t, exec (.frAppend 0x02) (openWith [0x01]) = .next t) ∧ 0 ≠ appendAddress (openWith [0x01]) ∧
    ∃ t, exec .frCloseDiscard (openWith [0x01]) = .next t := ⟨⟨_, rfl⟩, by decide, ⟨_, rfl⟩⟩

theorem witness_WritersOfThePersistentState :
    (∃ t, exec .ueEnd (scanning true []) = .next t) ∧ Instr.ueEnd.admits (.rb true) = true ∧
    (∃ t, exec .dirReq (parsed 0x08) = .next t) ∧ Instr.dirReq.admits .dir = true ∧
    (∃ t, exec .sync (parsed 0x08) = .next t) ∧ Instr.sync.admits .cmd = true ∧
    ∃ t, exec (.frOpen ⟨1⟩) idle = .next t := ⟨⟨_, rfl⟩, rfl, ⟨_, rfl⟩, rfl, ⟨_, rfl⟩, rfl, ⟨_, rfl⟩⟩

theorem witness_OnlyADelimiterMovesTheFramer :
    (AtRest (fed [.feed 0xC0 ⟨1⟩ ⟨2⟩]) ∧ (fed [.feed 0xC0 ⟨1⟩ ⟨2⟩]).input = .feed 0xC0 ⟨1⟩ ⟨2⟩ :: [] ∧
      ∃ t, step (fed [.feed 0xC0 ⟨1⟩ ⟨2⟩]) = .next t) ∧
    AtRest (openFed [] [.feed 0x01 ⟨1⟩ ⟨2⟩]) ∧ (openFed [] [.feed 0x01 ⟨1⟩ ⟨2⟩]).input = .feed 0x01 ⟨1⟩ ⟨2⟩ :: [] ∧
      ∃ t, step (openFed [] [.feed 0x01 ⟨1⟩ ⟨2⟩]) = .next t := ⟨⟨rfl, rfl, ⟨_, rfl⟩⟩, rfl, rfl, ⟨_, rfl⟩⟩

theorem openFed_inv (bytes : List Byte) (es : List HostEvent) (h : Memory.wf none bytes = true) : Inv (openFed bytes es) :=
  ⟨rfl, (fun h' => by cases h'), h⟩

theorem fullFed_inv (es : List HostEvent) : Inv (fullFed es) := ⟨rfl, (fun h => by cases h), rfl⟩

theorem witness_StepIsFeed :
    (Inv (openFed scenario [.feed 0xC0 ⟨1⟩ ⟨2⟩]) ∧ (openFed scenario [.feed 0xC0 ⟨1⟩ ⟨2⟩]).input = .feed 0xC0 ⟨1⟩ ⟨2⟩ :: [] ∧
      ∃ v r, feed (openFed scenario []).params (view (openFed scenario [])) 0xC0 ⟨1⟩ ⟨2⟩ = some (v, r)) ∧
    Inv (fullFed [.feed 0x01 ⟨1⟩ ⟨2⟩]) ∧ (fullFed [.feed 0x01 ⟨1⟩ ⟨2⟩]).input = .feed 0x01 ⟨1⟩ ⟨2⟩ :: [] ∧
      feed (fullFed []).params (view (fullFed [])) 0x01 ⟨1⟩ ⟨2⟩ = none :=
  ⟨⟨openFed_inv _ _ (by decide), rfl, _, _, rfl⟩, fullFed_inv _, rfl, rfl⟩

theorem witness_WhenRecordsAppear :
    (AtRest (openFed scenario [.feed 0xC0 ⟨1⟩ ⟨2⟩]) ∧ ∃ t, step (openFed scenario [.feed 0xC0 ⟨1⟩ ⟨2⟩]) = .next t) ∧
    (AtRest (openFed scenario []) ∧ Unbounded (openFed scenario []) ∧ 0xC0 ∉ bytesOf eight) ∧
    defaultParams.bufCap = none ∧ (bytesOf ((0xC0, ⟨0⟩, ⟨0⟩) :: eight)).count 0xC0 = 1 :=
  ⟨⟨rfl, _, rfl⟩, ⟨rfl, rfl, by decide⟩, rfl, by decide⟩

theorem witness_SharedDelimiterLosesTheSecondFrame :
    AtRest idle ∧ Unbounded idle ∧ idle.st = .idle ∧ 0xC0 ∉ bytesOf eight ∧ 8 ≤ eight.length :=
  ⟨rfl, rfl, rfl, by decide, by decide⟩

theorem witness_StrayDelimiterLosesEveryFrame :
    AtRest idle ∧ idle.st = .idle ∧ ∀ f ∈ [Bracketed.mk (⟨1⟩, ⟨2⟩) eight (⟨3⟩, ⟨4⟩)], 0xC0 ∉ bytesOf f.bytes :=
  ⟨rfl, rfl, by decide⟩

theorem witness_EveryStepKeepsTheInvariant :
    (Inv (openFed scenario [.feed 0xC0 ⟨1⟩ ⟨2⟩]) ∧ ∃ t, step (openFed scenario [.feed 0xC0 ⟨1⟩ ⟨2⟩]) = .next t) ∧
    Inv (openFed scenario [.reset]) ∧ ∃ t, step (openFed scenario [.reset]) = .next t :=
  ⟨⟨openFed_inv _ _ (by decide), _, rfl⟩, openFed_inv _ _ (by decide), _, rfl⟩

theorem witness_PersistentStateInvariantsInEveryRun :
    ∃ rs e, run 2 { State.resetWith defaultParams with input := [.feed 0xC0 ⟨1⟩ ⟨2⟩, .feed 0x01 ⟨3⟩ ⟨4⟩] } = some (rs, e) ∧
      e.st = .inFrame := ⟨_, _, rfl, rfl⟩

theorem witness_OnlyAFullBufferStopsTheBlock :
    Unbounded (openWith scenario) ∧ step (fullFed [.feed 0x01 ⟨1⟩ ⟨2⟩]) = .refused .bufferFull := ⟨rfl, rfl⟩

theorem witness_FramesAreIndependent :
    (∃ t, exec (.frCloseEmit ⟨1⟩) (openWith scenario) = .next t) ∧ (∃ t, exec .frCloseDiscard (openWith []) = .next t) ∧
    AtRest idle ∧ idle.st = .idle ∧ idle.buf = [] := ⟨⟨_, rfl⟩, ⟨_, rfl⟩, rfl, rfl, rfl⟩

theorem witness_TimestampsAreOnlyCopied : AtRest idle ∧ idle.st = .idle := ⟨rfl, rfl⟩

theorem witness_TimestampsKeepTheirWidth :
    AtRest (openFed scenario [.feed 0xC0 ⟨7⟩ ⟨0⟩]) ∧ TimestampsFit 3 (openFed scenario [.feed 0xC0 ⟨7⟩ ⟨0⟩]) ∧
    ∃ t, step (openFed scenario [.feed 0xC0 ⟨7⟩ ⟨0⟩]) = .next t :=
  ⟨rfl, ⟨fun _ => by decide, fun e he => by
    rw [List.mem_singleton.1 he]
    exact ⟨by decide, by decide⟩, fun r hr => by cases hr⟩, _, rfl⟩

theorem witness_EveryCloseLeavesTheSameState :
    AtRest (openFed [] [.feed 0xC0 ⟨1⟩ ⟨2⟩]) ∧ (openFed [] [.feed 0xC0 ⟨1⟩ ⟨2⟩]).st = .inFrame ∧
    (openFed [] [.feed 0xC0 ⟨1⟩ ⟨2⟩]).input = .feed 0xC0 ⟨1⟩ ⟨2⟩ :: [] := ⟨rfl, rfl, rfl⟩

theorem witness_OnlyEscapesYieldTheReservedValues :
    (scanning true []).work.ep = true ∧ (0xDC : Byte) ≠ 0xC0 ∧
    (∃ t, exec (decode (.rb true) 0xDC) (scanning true []) = .next t) ∧
    ∃ t, exec (decode (.rb true) 0xDD) (scanning true []) = .next t := ⟨rfl, by decide, ⟨_, rfl⟩, _, rfl⟩

theorem witness_InvalidEscapeIsDropped : (0xDB : Byte) ≠ 0xDC ∧ (0xDB : Byte) ≠ 0xDD := by decide

theorem witness_OrdinaryByteIsEmitted : (0xDC : Byte) ≠ 0xDB := by decide

theorem witness_ScanComputesUnescape :
    ((scanning true []).work.phase = .scan ∧ (scanning true []).work.pos ≤ (scanning true []).buf.length) ∧
    (scanOne [] false (scanning true [])).work.phase = .scan ∧
    (scanOne [] false (scanning true [])).work.pos ≤ (scanOne [] false (scanning true [])).buf.length := by decide

theorem witness_UnescapeLength : (0xDB : Byte) ∉ [(0xDC : Byte), 0xDD] := by decide

theorem witness_FrameRoundTrip :
    (AtRest idle ∧ Unbounded idle ∧ idle.st = .idle) ∧ frameBytes scenario = [0xC0] ++ bytesOf eight ++ [0xC0] :=
  ⟨⟨rfl, rfl, rfl⟩, by decide⟩

theorem witness_LossInsideEscapesIsSilent : (0xDB : Byte) ≠ 0xDC ∧ (0xDB : Byte) ≠ 0xDD := by decide

theorem witness_WellFormedPacketIsNeverDropped :
    ((0x01 : Byte) = 0x00 ∨ (0x01 : Byte) = 0x01) ∧ z16.length ≤ 65535 ∧ (List.replicate 65535 (0 : Byte)).length ≤ 65535 :=
  ⟨by decide, by decide, by rw [List.length_replicate]⟩

theorem witness_MemReadIsLittleEndian :
    readByte scenario 4 = some 0xEF ∧ readByte scenario (4 + 1) = some 0x00 ∧ readByte scenario (4 + 2) = some 0x00 ∧
    readByte scenario (4 + 3) = some 0x00 ∧ memRead scenario 5 4 = none := by decide

theorem witness_HeaderFieldsAreTheReads : ∃ h, parseHeader scenario = some h := ⟨_, rfl⟩

theorem witness_ShortUnescapedFrameIsADecodeFault :
    (unescape (openWith [0xDB, 0xDC, 0xDB, 0xDC, 0xDB, 0xDC, 0xDB, 0xDC]).buf).length < 8 := by decide

theorem witness_ResponseShowsValueOrPlaceholder :
    (parsed 0x0A).work.cmd = (parsed 0x0A).params.cmdReadReg ∧ (parsed 0x08).work.cmd ≠ (parsed 0x08).params.cmdReadReg ∧
    ∃ k, decodePacket defaultParams (packetOf 0x01 0x03 z16) = .packet k := ⟨rfl, by decide, _, rfl⟩

theorem witness_BadDirectionStopsTheDecode :
    (unescape (openWith (packetOf 0x02 0x08 [])).buf = 0x02 :: (packetOf 0x02 0x08 []).tail ∧
      7 ≤ (packetOf 0x02 0x08 []).tail.length) ∧ (0x02 : Byte) ≠ 0x00 ∧ (0x02 : Byte) ≠ 0x01 := by decide

theorem plen_of_packetOf (payload : List Byte) :
    ∃ k, decodePacket defaultParams (packetOf 0x00 0x08 payload) = .packet k ∧ k.plen = payload.length := ⟨_, rfl, rfl⟩

theorem witness_LengthPayloadAndLookup :
    (∃ k, decodePacket defaultParams (packetOf 0x00 0x08 (List.replicate 65536 0)) = .packet k ∧ 65535 < k.plen) ∧
    ∃ k, decodePacket defaultParams (packetOf 0x00 0x08 []) = .packet k := by
  obtain ⟨k, h, hl⟩ := plen_of_packetOf (List.replicate 65536 0)
  rw [List.length_replicate] at hl
  exact ⟨⟨k, h, by omega⟩, _, rfl⟩

theorem witness_ChecksumIsVerifiedOnTwoConditions :
    (∃ k, decodePacket defaultParams (packetOf 0x00 0x03 z16) = .packet k ∧ k.ckChecked = true) ∧
    ∃ k, decodePacket defaultParams (packetOf 0x00 0x03 z16.tail) = .packet k ∧ k.ckChecked = false := ⟨⟨_, rfl, rfl⟩, _, rfl, rfl⟩

theorem witness_ChecksumComparesAllFourBytes :
    (∃ k, decodePacket defaultParams (packetOf 0x00 0x03 z16) = .packet k ∧ k.ckChecked = true) ∧
    0x03 ∈ defaultParams.cksumSet ∧ 16 ≤ z16.length := ⟨⟨_, rfl, rfl⟩, by decide, by decide⟩

theorem witness_ChecksumFoldIgnoresOrder :
    [(0x11 : Byte), 0x22].Perm [0x22, 0x11] ∧ [(0x5A : Byte), 0x11, 0x5A].count 0x5A % 2 = 0 ∧
    ∃ k, decodePacket defaultParams (packetOf 0x00 0x03 (z16 ++ [0x5A, 0x5A])) = .packet k ∧ k.ckChecked = true :=
  ⟨by decide, by decide, _, rfl, rfl⟩

theorem witness_DirectionTakesNoPartInTheChecksum :
    ∃ k k', decodePacket defaultParams (0x00 :: (packetOf 0x00 0x03 z16).tail) = .packet k ∧
      decodePacket defaultParams (0x01 :: (packetOf 0x00 0x03 z16).tail) = .packet k' := ⟨_, _, rfl, rfl⟩

theorem witness_ExactlyTheBytesFromOffset16AreCovered :
    (∃ k, decodePacket defaultParams (packetOf 0x00 0x03 (z16 ++ [0x00])) = .packet k ∧ k.ckChecked = true ∧
      k.ckMismatch = false) ∧
    23 < (packetOf 0x00 0x03 (z16 ++ [0x00])).length ∧ 24 < (packetOf 0x00 0x03 (z16 ++ [0x00])).length ∧
    readByte (packetOf 0x00 0x03 (z16 ++ [0x00])) 24 ≠ some 0x01 := ⟨⟨_, rfl, rfl, rfl⟩, by decide, by decide, by decide⟩

theorem witness_DefaultCommandAttributes : defaultParams.wellFormed = true := by decide

theorem witness_CommandWithoutVerification :
    (Instr.sync, 0x08) ∈ commandOperations 0x0C ∧ (Instr.memData, 0x07) ∈ commandOperations 0x0C ∧ 0x08 ∉ (parsed 0x08).params.cksumSet ∧
    ({ parsed 0x07 with work := { (parsed 0x07).work with payload := z16.tail } } : State).work.payload.length < 16 := by decide

theorem witness_CommandWithVerification :
    (Instr.flashData, 0x03) ∈ commandOperations 0x0C ∧ 0x03 ∈ (parsed 0x03).params.cksumSet ∧
    16 ≤ ({ parsed 0x03 with work := { (parsed 0x03).work with payload := z16 } } : State).work.payload.length := by decide

theorem witness_CommandClassesDecideFieldAndVerification :
    (∃ k, decodePacket defaultParams (packetOf 0x00 0x03 z16) = .packet k ∧ k.isResp = false ∧ k.cmd ∈ defaultParams.cksumSet) ∧
    (∃ k, decodePacket defaultParams (packetOf 0x01 0x0A []) = .packet k ∧ k.isResp = true ∧
      k.cmd = defaultParams.cmdReadReg) ∧
    ∃ k, decodePacket defaultParams (packetOf 0x01 0x08 []) = .packet k ∧ k.isResp = true ∧
      k.cmd ≠ defaultParams.cmdReadReg ∧ k.cmd ∉ defaultParams.cksumSet :=
  ⟨⟨_, rfl, rfl, by decide⟩, ⟨_, rfl, rfl, rfl⟩, _, rfl, rfl, by decide, by decide⟩

theorem witness_UnknownCommandDecodesInFull :
    (0x0C : Byte) ∉ commandIds ∧ (0xD4 : Byte) ∉ commandIds ∧ ((0x01 : Byte) = 0x00 ∨ (0x01 : Byte) = 0x01) := by decide

theorem witness_ErrorsAreTestedInOrder :
    (scenario.take 7).length < 8 ∧ 8 ≤ scenario.length ∧
    (8 ≤ [0xDB, 0xDC, 0xDB, 0xDC, 0xDB, 0xDC, 0xDB, (0xDC : Byte)].length ∧
      (unescape [0xDB, 0xDC, 0xDB, 0xDC, 0xDB, 0xDC, 0xDB, 0xDC]).length < 8) ∧
    unescape (packetOf 0x02 0x08 []) = 0x02 :: (packetOf 0x02 0x08 []).tail ∧
    (∃ k, decodePacket defaultParams (unescape (packetOf 0x00 0x03 (z16 ++ [0x01]))) = .packet k) ∧
    closeErrors defaultParams (packetOf 0x00 0x03 (z16 ++ [0x01])) = [.lengthMismatch, .checksumMismatch] ∧
    closeErrors defaultParams (packetOf 0x02 0x08 []) = [.badDirection] ∧
    ∃ t, exec (.frCloseEmit ⟨1⟩) (openWith scenario) = .next t :=
  ⟨by decide, by decide, by decide, by decide, ⟨_, rfl⟩, by decide, by decide, _, rfl⟩

/-- A packet with both annotations. -/
def annotated (sel : FldSel) (cmd : Byte) : Packet :=
  { isResp := false, cmd := cmd, cmdKnown := true, size := 0, fld := ⟨0, 0, 0, 0⟩, fldSel := sel, fldOut := ⟨0, 0, 0, 0⟩
    payload := [0x01], lenMismatch := true, ckChecked := true, ckMismatch := true, ckCalc := 0xEF }

theorem witness_LinePartsFollowTheRecord :
    commandName defaultParams (annotated .checksum 0x08).cmd = some "SYNC" ∧
    commandName defaultParams (annotated .value 0x55).cmd = none ∧ (annotated .checksum 0x08).fldSel = .checksum ∧
    (annotated .value 0x55).fldSel = .value ∧ (annotated .placeholder 0x55).fldSel = .placeholder ∧
    (annotated .checksum 0x08).payload ≠ [] ∧ (annotated .checksum 0x08).ckMismatch = true ∧
    (annotated .checksum 0x08).lenMismatch = true := by decide

/-- The annotation is in part 4, and the parts stand in the order of R241. -/
theorem test_lineParts_order : (lineParts defaultParams (annotated .checksum 0x08)).map Prod.fst =
    [.packetType, .name, .size, .field, .payload, .lengthNote] := by decide

/-- The line names an unmapped identifier by its value (R243, R245). -/
theorem test_unknownName : nameText defaultParams 0x5A = "Unknown Command (0x5A)" := by decide

end Sys2Proof.Tests
end

section
/-! SUPPORT. The decode of a closing frame touches nothing but the values that live inside its step (R28), so a close that emits
is a close with some record; and what one step at rest can do, said once. -/

namespace Sys2Proof.Machine

open Sys2Proof.Safety

/-! ## The operations of levels 2 and 3 write only the values inside the step -/

/-- `t` is `s` but for the values that live inside the step, and the closing delimiter's timestamp among those is kept. -/
def ChangesOnlyWork (s t : State) : Prop := ∃ w : Work, w.tEnd = s.work.tEnd ∧ t = { s with work := w }

theorem ChangesOnlyWork.refl (s : State) : ChangesOnlyWork s s := ⟨s.work, rfl, rfl⟩

theorem ChangesOnlyWork.trans {s t u : State} (hst : ChangesOnlyWork s t) (htu : ChangesOnlyWork t u) :
    ChangesOnlyWork s u := by
  obtain ⟨v, hv, rfl⟩ := hst
  obtain ⟨w, hw, rfl⟩ := htu
  exact ⟨w, hw.trans hv, rfl⟩

theorem scanOne_changesOnlyWork (bytes : List Byte) (ep : Bool) (s : State) : ChangesOnlyWork s (scanOne bytes ep s) :=
  ⟨(scanOne bytes ep s).work, rfl, rfl⟩

theorem raiseError_changesOnlyWork (k : Kind) (s : State) : ChangesOnlyWork s (raiseError k s) :=
  ⟨(raiseError k s).work, rfl, rfl⟩

theorem setDirection_changesOnlyWork (isResp : Bool) (sel : FldSel) (shown : Quad) (s : State) :
    ChangesOnlyWork s (setDirection isResp sel shown s) :=
  ⟨(setDirection isResp sel shown s).work, rfl, rfl⟩

theorem applyCommand_changesOnlyWork (c : Byte) (s : State) : ChangesOnlyWork s (applyCommand c s) :=
  ⟨(applyCommand c s).work, rfl, rfl⟩

theorem loadHeader_changesOnlyWork (h : Header) (s : State) : ChangesOnlyWork s (loadHeader h s) :=
  ⟨(loadHeader h s).work, rfl, rfl⟩

theorem endScan_changesOnlyWork (s : State) : ChangesOnlyWork s (endScan s) := by
  unfold endScan
  split
  · exact raiseError_changesOnlyWork _ s
  · exact loadHeader_changesOnlyWork _ s

/-! ## No operation of levels 2 and 3 stops -/

theorem execPart_next (i : Instr) (s : State) : ∃ t, execPart i s = .next t ∧ ChangesOnlyWork s t := by
  cases i with
  | frOpen | frCloseDiscard | frCloseEmit | frAppend | frIgnore => exact ⟨s, rfl, .refl s⟩
  | ueEnd | ueEsc | ueDrop | ueMark | ueLit => exact ⟨_, rfl, scanOne_changesOnlyWork _ _ s⟩
  | dirReq => exact ⟨_, rfl, setDirection_changesOnlyWork _ _ _ s⟩
  | dirResp =>
    simp only [execPart, execDirResp]
    split <;> exact ⟨_, rfl, setDirection_changesOnlyWork _ _ _ s⟩
  | dirInvalid => exact ⟨_, rfl, raiseError_changesOnlyWork _ s⟩
  | _ => exact ⟨_, rfl, applyCommand_changesOnlyWork _ s⟩

theorem scanBytes_next (bytes : List Byte) (s : State) : ∃ t, scanBytes bytes s = .next t ∧ ChangesOnlyWork s t := by
  induction bytes generalizing s with
  | nil => exact ⟨s, rfl, .refl s⟩
  | cons x rest ih =>
    obtain ⟨u, hu, hsu⟩ := execPart_next (decodeRaw s.work.ep x) s
    obtain ⟨t, ht, hut⟩ := ih u
    exact ⟨t, by simp only [scanBytes, hu, next_andThen, ht], hsu.trans hut⟩

theorem decodeDirectionPart_next (s : State) : ∃ t, decodeDirectionPart s = .next t ∧ ChangesOnlyWork s t := by
  unfold decodeDirectionPart
  cases s.work.phase with
  | dir => exact execPart_next _ s
  | rest | scan | cmd | done => exact ⟨s, rfl, .refl s⟩

theorem decodeCommandPart_next (s : State) : ∃ t, decodeCommandPart s = .next t ∧ ChangesOnlyWork s t := by
  unfold decodeCommandPart
  cases s.work.phase with
  | cmd => exact execPart_next _ s
  | rest | scan | dir | done => exact ⟨s, rfl, .refl s⟩

/-! ## A close that emits -/

theorem finishFrame_of_changesOnlyWork {tsE : Timestamp} {s t : State} (h : ChangesOnlyWork (startScan tsE s) t) :
    finishFrame t = closeFrame (emitRecord tsE (workBody t.work) s) := by
  obtain ⟨w, hw, rfl⟩ := h
  have hEnd : w.tEnd = tsE := hw
  simp only [finishFrame, hEnd]
  rfl

/-- `FR.CLOSE_EMIT` always goes on, and whatever the frame held, it emits a record with `TS0` and `ts_e` and closes (R123,
R270). -/
theorem execFrCloseEmit_next (tsE : Timestamp) (s : State) :
    ∃ body, execFrCloseEmit tsE s = .next (closeFrame (emitRecord tsE body s)) := by
  obtain ⟨scanned, hScan, keepScan⟩ := scanBytes_next s.buf (startScan tsE s)
  obtain ⟨directed, hDir, keepDir⟩ := decodeDirectionPart_next (endScan scanned)
  obtain ⟨decoded, hCmd, keepCmd⟩ := decodeCommandPart_next directed
  have keep : ChangesOnlyWork (startScan tsE s) decoded :=
    ((keepScan.trans (endScan_changesOnlyWork scanned)).trans keepDir).trans keepCmd
  exact ⟨workBody decoded.work, by
    simp only [execFrCloseEmit, hScan, hDir, hCmd, next_andThen, finishFrame_of_changesOnlyWork keep]⟩

/-! ## One step at rest -/

/-- The ways one step can go on from a state at rest: one for no input, one for reset, one for each operation of the framer
with the conditions that select it (R82, R121 to R125). -/
inductive RestStep (s : State) : State → Prop
  | waits (hi : s.input = []) : RestStep s (idleStep s)
  | resets (rest : List HostEvent) (hi : s.input = .reset :: rest) : RestStep s (resetEvent (popEvent s))
  | opens (tsS tsE : Timestamp) (rest : List HostEvent) (hi : s.input = .feed Config.delim tsS tsE :: rest)
      (hst : s.st = .idle) : RestStep s (openFrame tsS (idleStep (popEvent s)))
  | ignores (b : Byte) (tsS tsE : Timestamp) (rest : List HostEvent) (hi : s.input = .feed b tsS tsE :: rest)
      (hb : b ≠ Config.delim) (hst : s.st = .idle) : RestStep s (idleStep (popEvent s))
  | discards (tsS tsE : Timestamp) (rest : List HostEvent) (hi : s.input = .feed Config.delim tsS tsE :: rest)
      (hst : s.st = .inFrame) (hlen : s.buf.length < Config.minRaw) : RestStep s (closeFrame (idleStep (popEvent s)))
  | emits (tsS tsE : Timestamp) (rest : List HostEvent) (hi : s.input = .feed Config.delim tsS tsE :: rest)
      (hst : s.st = .inFrame) (hlen : Config.minRaw ≤ s.buf.length) (body : Body) :
      RestStep s (closeFrame (emitRecord tsE body (idleStep (popEvent s))))
  | appends (b : Byte) (tsS tsE : Timestamp) (rest : List HostEvent) (hi : s.input = .feed b tsS tsE :: rest)
      (hb : b ≠ Config.delim) (hst : s.st = .inFrame) (hroom : hasRoom s = true) :
      RestStep s (appendByte b (idleStep (popEvent s)))

theorem phase_of_atRest {s : State} (h : AtRest s) : s.work.phase = .rest := congrArg Work.phase h

theorem step_feed_atRest {s : State} {b : Byte} {tsS tsE : Timestamp} {rest : List HostEvent} (h : AtRest s)
    (hi : s.input = .feed b tsS tsE :: rest) :
    step s = exec (decodeStream s.st s.buf.length tsS tsE b) (idleStep (popEvent s)) := by
  simp only [step, fetch_feed s b tsS tsE rest (phase_of_atRest h) hi, beforeExec, phase_of_atRest h, decode]

theorem restStep_of_feed {s t : State} {b : Byte} {tsS tsE : Timestamp} {rest : List HostEvent} (h : AtRest s)
    (hi : s.input = .feed b tsS tsE :: rest) (hs : step s = .next t) : RestStep s t := by
  rw [step_feed_atRest h hi] at hs
  by_cases hb : b = Config.delim
  · subst hb
    cases hst : s.st with
    | idle =>
      simp only [decodeStream, hst, if_true, exec, execFrOpen, Host.Outcome.next.injEq] at hs
      exact hs ▸ .opens tsS tsE rest hi hst
    | inFrame =>
      by_cases hlen : s.buf.length < Config.minRaw
      · simp only [decodeStream, hst, if_true, hlen, exec, execFrCloseDiscard, Host.Outcome.next.injEq] at hs
        exact hs ▸ .discards tsS tsE rest hi hst hlen
      · obtain ⟨body, hbody⟩ := execFrCloseEmit_next tsE (idleStep (popEvent s))
        simp only [decodeStream, hst, if_true, hlen, if_false, exec, hbody, Host.Outcome.next.injEq] at hs
        exact hs ▸ .emits tsS tsE rest hi hst (Nat.le_of_not_lt hlen) body
  · cases hst : s.st with
    | idle =>
      simp only [decodeStream, hst, hb, if_false, exec, execFrIgnore, Host.Outcome.next.injEq] at hs
      exact hs ▸ .ignores b tsS tsE rest hi hb hst
    | inFrame =>
      simp only [decodeStream, hst, hb, if_false, exec, execFrAppend] at hs
      split at hs
      next hroom =>
        cases hs
        exact .appends b tsS tsE rest hi hb hst hroom
      next => cases hs

/-- The inversion of one step at rest. -/
theorem restStep_of_step {s t : State} (h : AtRest s) (hs : step s = .next t) : RestStep s t := by
  match hi : s.input with
  | [] =>
    simp only [step, fetch_waiting s (phase_of_atRest h) hi, Host.Outcome.next.injEq] at hs
    exact hs ▸ .waits hi
  | .reset :: rest =>
    simp only [step, fetch_reset s rest (phase_of_atRest h) hi, Host.Outcome.next.injEq] at hs
    exact hs ▸ .resets rest hi
  | .feed b tsS tsE :: rest => exact restStep_of_feed h hi hs

end Sys2Proof.Machine
end

section
/-! SUPPORT. Timestamps of a given width: what each update of a step needs to keep them, and that every step at rest has it
(R7, R10, R26). -/

namespace Sys2Proof.Safety

open Sys2Proof.Machine

section
variable {w : Nat} {s : State}

theorem TimestampsFit.head (h : TimestampsFit w s) {e : HostEvent} {rest : List HostEvent} (hi : s.input = e :: rest) :
    EventFits w e := h.input e (by simp [hi])

theorem TimestampsFit.idleStep (h : TimestampsFit w s) : TimestampsFit w (idleStep s) :=
  ⟨h.ts0, h.input, by simp⟩

theorem TimestampsFit.popEvent (h : TimestampsFit w s) : TimestampsFit w (popEvent s) :=
  ⟨h.ts0, fun e he => h.input e (List.mem_of_mem_tail he), h.out⟩

/-- Reset leaves `TS0` unspecified, and no frame open that would hold it (R33). -/
theorem TimestampsFit.resetEvent (h : TimestampsFit w s) : TimestampsFit w (resetEvent s) :=
  ⟨by simp, h.input, by simp⟩

theorem TimestampsFit.openFrame (h : TimestampsFit w s) {tsS : Timestamp} (hS : tsS.token < 2 ^ w) :
    TimestampsFit w (openFrame tsS s) := ⟨fun _ => hS, h.input, h.out⟩

theorem TimestampsFit.closeFrame (h : TimestampsFit w s) : TimestampsFit w (closeFrame s) :=
  ⟨by simp, h.input, h.out⟩

/-- The record takes `TS0`, which a frame that is open bounds. -/
theorem TimestampsFit.emitRecord (h : TimestampsFit w s) {tsE : Timestamp} (hst : s.st = .inFrame)
    (hE : tsE.token < 2 ^ w) (body : Body) : TimestampsFit w (emitRecord tsE body s) := by
  refine ⟨h.ts0, h.input, fun r hr => ?_⟩
  rw [emitRecord_out, Option.mem_some_iff] at hr
  subst hr
  exact ⟨h.ts0 hst, hE⟩

theorem TimestampsFit.appendByte (h : TimestampsFit w s) (b : Byte) : TimestampsFit w (appendByte b s) :=
  ⟨h.ts0, h.input, h.out⟩

theorem TimestampsFit.of_restStep {t : State} (h : TimestampsFit w s) (hs : RestStep s t) : TimestampsFit w t := by
  have taken := h.popEvent.idleStep
  cases hs with
  | waits => exact h.idleStep
  | resets => exact h.popEvent.resetEvent
  | opens tsS tsE rest hi => exact taken.openFrame (h.head hi).1
  | ignores => exact taken
  | discards => exact taken.closeFrame
  | emits tsS tsE rest hi hst hlen body => exact (taken.emitRecord hst (h.head hi).2 body).closeFrame
  | appends b => exact taken.appendByte b

end

/-- Settles O26: the only stores of a timestamp are those of `FR.OPEN` and `FR.CLOSE_EMIT`, and each copies one that was fed
or that an open frame holds. -/
theorem timestampsKeepTheirWidth : Obligations.TimestampsKeepTheirWidth := by
  intro w s t hRest hFit hs
  exact hFit.of_restStep (restStep_of_step hRest hs)

end Sys2Proof.Safety
end

section
/-! SUPPORT. The invariant of the persistent state (R20, R27, R28) at reset and along one step, and what a run keeps if every
step keeps it. -/

namespace Sys2Proof.Safety

open Sys2Proof.Machine
open Sys2Proof.Config (Params)

/-! ## Reset -/

theorem inv_resetWith (p : Params) : Inv (State.resetWith p) := ⟨rfl, fun _ => rfl, resetWith_memory_wf p⟩

/-- Settles O1: each field of the reset state is the one R33 writes down. -/
theorem resetIsIdleAndEmpty : Obligations.ResetIsIdleAndEmpty :=
  ⟨fun _ => ⟨rfl, rfl, rfl, rfl, rfl⟩, rfl⟩

/-- Settles O20: the default instantiation is one of all. -/
theorem invariantHoldsAtReset : Obligations.InvariantHoldsAtReset :=
  ⟨fun p => ⟨inv_resetWith p, rfl, rfl⟩, inv_resetWith defaultParams, rfl, rfl⟩

/-! ## One step -/

section
variable {s : State}

/-- The buffer holds no delimiter (R27 (b)). -/
theorem Inv.delim_notMem (h : Inv s) : Config.delim ∉ s.buf := ((memory_wf_iff _ _).1 h.bufWf).1

theorem Inv.idleStep (h : Inv s) : Inv (idleStep s) := ⟨h.atRest, h.idleEmpty, h.bufWf⟩

theorem Inv.popEvent (h : Inv s) : Inv (popEvent s) := ⟨h.atRest, h.idleEmpty, h.bufWf⟩

theorem inv_resetEvent (s : State) : Inv (resetEvent s) := ⟨rfl, fun _ => rfl, resetWith_memory_wf s.params⟩

theorem Inv.openFrame (h : Inv s) (tsS : Timestamp) : Inv (openFrame tsS s) :=
  ⟨h.atRest, fun _ => rfl, memory_wf_nil _⟩

theorem Inv.closeFrame (h : Inv s) : Inv (closeFrame s) := ⟨h.atRest, fun _ => rfl, memory_wf_nil _⟩

/-- A record is emitted at the end of a decode, and nothing of the decode is left (R28). -/
theorem Inv.emitRecord (h : Inv s) (tsE : Timestamp) (body : Body) : Inv (emitRecord tsE body s) :=
  ⟨rfl, h.idleEmpty, h.bufWf⟩

/-- `FR.APPEND` keeps the invariant because it is selected in `InFrame` only, by no delimiter, and refuses a full buffer. -/
theorem Inv.appendByte (h : Inv s) {b : Byte} (hb : b ≠ Config.delim) (hst : s.st = .inFrame) (hroom : hasRoom s = true) :
    Inv (appendByte b s) := by
  refine ⟨h.atRest, fun hidle => ?_, appendByte_keeps_wf b s hb hroom h.bufWf⟩
  rw [appendByte_st, hst] at hidle
  cases hidle

theorem Inv.of_restStep {t : State} (h : Inv s) (hs : RestStep s t) : Inv t := by
  have taken := h.popEvent.idleStep
  cases hs with
  | waits => exact h.idleStep
  | resets => exact inv_resetEvent _
  | opens tsS => exact taken.openFrame tsS
  | ignores => exact taken
  | discards => exact taken.closeFrame
  | emits _ tsE _ _ _ _ body => exact (taken.emitRecord tsE body).closeFrame
  | appends b _ _ _ _ hb hst hroom => exact taken.appendByte hb hst hroom

theorem params_eq_of_restStep {t : State} (hs : RestStep s t) : t.params = s.params := by
  cases hs <;> rfl

theorem Inv.of_step {t : State} (h : Inv s) (hs : step s = .next t) : Inv t := h.of_restStep (restStep_of_step h.atRest hs)

end

/-- Settles O21: each of the ways in which a step at rest goes on keeps the invariant and writes no parameter (R30). -/
theorem everyStepKeepsTheInvariant : Obligations.EveryStepKeepsTheInvariant := by
  intro s t h hs
  exact ⟨h.of_step hs, params_eq_of_restStep (restStep_of_step h.atRest hs)⟩

/-! ## Runs -/

theorem run_succ_eq_some {k : Nat} {s e : State} {rs : List Record} (h : run (k + 1) s = some (rs, e)) :
    ∃ t rs', step s = .next t ∧ run k t = some (rs', e) := by
  unfold run at h
  split at h
  next t hs =>
    obtain ⟨⟨rs', e'⟩, hrun, heq⟩ := Option.map_eq_some_iff.1 h
    cases heq
    exact ⟨t, rs', hs, hrun⟩
  all_goals cases h

/-- What every step keeps, every run keeps. -/
theorem run_keeps {P : State → Prop} (hstep : ∀ s t, P s → step s = .next t → P t) (k : Nat) :
    ∀ {s e : State} {rs : List Record}, P s → run k s = some (rs, e) → P e := by
  induction k with
  | zero =>
    intro s e rs h hrun
    cases hrun
    exact h
  | succ k ih =>
    intro s e rs h hrun
    obtain ⟨t, rs', hs, hrun'⟩ := run_succ_eq_some hrun
    exact ih (hstep s t h hs) hrun'

/-- What R27 says of a state in a run that is fed `es`: the invariant, and that `TS0` of an open frame is the `ts_s` of a
delimiter among `es`. What is still to be fed is part of `es`, so a frame opened later is of this kind too. -/
structure FedInv (es : List HostEvent) (s : State) : Prop where
  inv : Inv s
  toCome : s.input ⊆ es
  /-- R27 (c). -/
  opened : s.st = .inFrame → ∃ tsE, HostEvent.feed Config.delim s.ts0 tsE ∈ es

theorem input_subset_of_restStep {s t : State} (hs : RestStep s t) : t.input ⊆ s.input := by
  cases hs with
  | waits => exact List.Subset.refl _
  | resets | opens | ignores | discards | emits | appends => exact List.tail_subset _

theorem FedInv.opened_of_restStep {es : List HostEvent} {s t : State} (h : FedInv es s) (hs : RestStep s t)
    (hst : t.st = .inFrame) : ∃ tsE, HostEvent.feed Config.delim t.ts0 tsE ∈ es := by
  cases hs with
  | waits | ignores | appends => exact h.opened hst
  | opens tsS tsE rest hi => exact ⟨tsE, h.toCome (by simp [hi])⟩
  | resets | discards | emits => cases hst

theorem FedInv.of_step {es : List HostEvent} {s t : State} (h : FedInv es s) (hs : step s = .next t) : FedInv es t := by
  have hr := restStep_of_step h.inv.atRest hs
  exact ⟨h.inv.of_restStep hr, List.Subset.trans (input_subset_of_restStep hr) h.toCome, h.opened_of_restStep hr⟩

theorem fedInv_resetWith (p : Params) (es : List HostEvent) : FedInv es { State.resetWith p with input := es } := by
  obtain ⟨hrest, hidle, hwf⟩ := inv_resetWith p
  exact ⟨⟨hrest, hidle, hwf⟩, List.Subset.refl es, fun hst => by cases hst⟩

/-- Settles O22: `FedInv` holds at reset and every step keeps it. -/
theorem persistentStateInvariantsInEveryRun : Obligations.PersistentStateInvariantsInEveryRun := by
  intro p es k rs e hrun
  have he : FedInv es e := run_keeps (fun _ _ h hs => h.of_step hs) k (fedInv_resetWith p es) hrun
  exact ⟨fun hst => by simp [he.inv.idleEmpty hst], he.inv.delim_notMem, he.opened⟩

end Sys2Proof.Safety
end

section
/-! SUPPORT. What each operation can do to the persistent state, and which transitions `st` has (R20, R22, R31). -/

namespace Sys2Proof.Machine

open Sys2Proof.Safety

/-- The ways an operation can go on: one for each operation of the framer (R121 to R125), whatever context it is executed in
(log entry 11), and one for those of levels 2 and 3, of which it says only that nothing that persists is written. -/
inductive ExecStep (s : State) : Instr → State → Prop
  | opens (tsS : Timestamp) : ExecStep s (.frOpen tsS) (openFrame tsS s)
  | discards : ExecStep s .frCloseDiscard (closeFrame s)
  | emits (tsE : Timestamp) (body : Body) : ExecStep s (.frCloseEmit tsE) (closeFrame (emitRecord tsE body s))
  | appends (b : Byte) : ExecStep s (.frAppend b) (appendByte b s)
  | ignores (b : Byte) : ExecStep s (.frIgnore b) s
  | decodes (i : Instr) (t : State) (keep : ChangesOnlyWork s t) : ExecStep s i t

theorem execStep_of_execPart {i : Instr} {s t : State} (h : execPart i s = .next t) : ExecStep s i t := by
  obtain ⟨u, hu, keep⟩ := execPart_next i s
  cases hu.symm.trans h
  exact .decodes i t keep

/-- The inversion of `exec`. -/
theorem execStep_of_exec {i : Instr} {s t : State} (h : exec i s = .next t) : ExecStep s i t := by
  cases i with
  | frOpen tsS => cases h; exact .opens tsS
  | frCloseDiscard => cases h; exact .discards
  | frCloseEmit tsE =>
    obtain ⟨body, hbody⟩ := execFrCloseEmit_next tsE s
    cases hbody.symm.trans h
    exact .emits tsE body
  | frAppend b =>
    simp only [exec, execFrAppend] at h
    split at h
    · cases h; exact .appends b
    · cases h
  | frIgnore b => cases h; exact .ignores b
  | _ => exact execStep_of_execPart h

/-- Settles O14: the framer's operations write what their rule says and are selected at no later level; the others write only
the values inside the step. -/
theorem writersOfThePersistentState : Obligations.WritersOfThePersistentState := by
  intro i s t h
  cases execStep_of_exec h with
  | opens tsS => simp [Instr.admits, Context.isStream]
  | discards => simp [Instr.admits, Context.isStream]
  | emits tsE body => simp [Instr.admits, Context.isStream]
  | appends b => simp [Instr.admits, Context.isStream]
  | ignores b => exact ⟨rfl, rfl, fun _ => rfl, .inl rfl, .inl rfl, .inl rfl⟩
  | decodes _ _ keep =>
    obtain ⟨w, -, rfl⟩ := keep
    exact ⟨rfl, rfl, fun _ => rfl, .inl rfl, .inl rfl, .inl rfl⟩

/-- Settles O15: of the ways in which a step at rest goes on, those of a delimiter leave the other `st`, and those of any other
byte the same. -/
theorem onlyADelimiterMovesTheFramer : Obligations.OnlyADelimiterMovesTheFramer := by
  intro s t b tsS tsE rest hrest hi hs
  have hr := restStep_of_step hrest hs
  have hinput : s.input.tail = rest := by rw [hi]; rfl
  cases hr with
  | waits hi' => cases hi'.symm.trans hi
  | resets _ hi' => cases hi'.symm.trans hi
  | opens _ _ _ hi' hst | discards _ _ _ hi' hst | emits _ _ _ hi' hst =>
    cases hi'.symm.trans hi
    exact ⟨hinput, fun _ => by simp [hst], fun hb => absurd rfl hb⟩
  | ignores _ _ _ _ hi' hb | appends _ _ _ _ hi' hb =>
    cases hi'.symm.trans hi
    exact ⟨hinput, fun hdelim => absurd hdelim hb, fun _ => rfl⟩

end Sys2Proof.Machine
end

section
/-! SUPPORT. A decode reads the parameters and the buffer and no timestamp, so the body of a record depends on those two
alone (R26, R160). -/

namespace Sys2Proof.Machine

/-- The decode that `s` has in progress, carried on in the state `host` and with the closing timestamp `tE`: all that `host`
gives are the framer's state, `TS0`, the input and the output. -/
def graft (host : State) (tE : Timestamp) (s : State) : State :=
  { host with params := s.params, work := { s.work with tEnd := tE } }

section
variable (host : State) (tE : Timestamp)

/-- If `f` goes on from `s` to `t`, then from the graft of `s` to the graft of `t`. -/
def Grafts (f : State → Result) : Prop := ∀ s t, f s = .next t → f (graft host tE s) = .next (graft host tE t)

theorem execPart_grafts (i : Instr) : Grafts host tE (execPart i) := by
  intro s t h
  cases i with
  | dirResp =>
    simp only [execPart, execDirResp] at h ⊢
    split at h
    next hrr => cases h; exact if_pos hrr
    next hrr => cases h; exact if_neg hrr
  | _ => cases h; rfl

theorem scanBytes_grafts (bytes : List Byte) : Grafts host tE (scanBytes bytes) := by
  induction bytes with
  | nil =>
    intro s t h
    cases h
    rfl
  | cons x rest ih =>
    intro s t h
    obtain ⟨u, hu, ht⟩ := (andThen_eq_next _ _ _).1 h
    have hu' := execPart_grafts host tE _ s u hu
    exact (andThen_eq_next _ _ _).2 ⟨_, hu', ih u t ht⟩

theorem endScan_graft (s : State) : endScan (graft host tE s) = graft host tE (endScan s) := by
  unfold endScan graft
  cases parseHeader s.work.u <;> rfl

theorem decodeDirectionPart_of_dir {s : State} (hp : s.work.phase = .dir) :
    decodeDirectionPart s = execPart (decodeDirection s.work.dir) s := by
  simp only [decodeDirectionPart, hp]

theorem decodeDirectionPart_of_ne {s : State} (hp : s.work.phase ≠ .dir) : decodeDirectionPart s = .next s := by
  unfold decodeDirectionPart
  split
  next hdir => exact absurd hdir hp
  all_goals rfl

theorem decodeCommandPart_of_cmd {s : State} (hp : s.work.phase = .cmd) :
    decodeCommandPart s = execPart (decodeCommand s.work.cmd) s := by
  simp only [decodeCommandPart, hp]

theorem decodeCommandPart_of_ne {s : State} (hp : s.work.phase ≠ .cmd) : decodeCommandPart s = .next s := by
  unfold decodeCommandPart
  split
  next hcmd => exact absurd hcmd hp
  all_goals rfl

theorem decodeDirectionPart_grafts : Grafts host tE decodeDirectionPart := by
  intro s t h
  by_cases hp : s.work.phase = .dir
  · rw [decodeDirectionPart_of_dir hp] at h
    exact (decodeDirectionPart_of_dir (s := graft host tE s) hp).trans (execPart_grafts host tE _ s t h)
  · cases (decodeDirectionPart_of_ne hp).symm.trans h
    exact decodeDirectionPart_of_ne (s := graft host tE s) hp

theorem decodeCommandPart_grafts : Grafts host tE decodeCommandPart := by
  intro s t h
  by_cases hp : s.work.phase = .cmd
  · rw [decodeCommandPart_of_cmd hp] at h
    exact (decodeCommandPart_of_cmd (s := graft host tE s) hp).trans (execPart_grafts host tE _ s t h)
  · cases (decodeCommandPart_of_ne hp).symm.trans h
    exact decodeCommandPart_of_ne (s := graft host tE s) hp

end

theorem startScan_eq_graft {s t : State} (hparams : t.params = s.params) (tsE tsE' : Timestamp) :
    startScan tsE' t = graft t tsE' (startScan tsE s) := by
  simp only [graft, startScan_params, ← hparams]
  rfl

theorem finishFrame_graft {s t : State} (hparams : t.params = s.params) (tE : Timestamp) :
    finishFrame (graft t tE s) = closeFrame (emitRecord tE (workBody s.work) t) := by
  simp only [graft, ← hparams]
  rfl

/-- Two closes of the same bytes under the same parameters emit the same body, whatever the timestamps. -/
theorem execFrCloseEmit_sameBody {s t : State} (hparams : t.params = s.params) (hbuf : t.buf = s.buf)
    (tsE tsE' : Timestamp) :
    ∃ body, execFrCloseEmit tsE s = .next (closeFrame (emitRecord tsE body s)) ∧
      execFrCloseEmit tsE' t = .next (closeFrame (emitRecord tsE' body t)) := by
  obtain ⟨scanned, hScan, keepScan⟩ := scanBytes_next s.buf (startScan tsE s)
  obtain ⟨directed, hDir, keepDir⟩ := decodeDirectionPart_next (endScan scanned)
  obtain ⟨decoded, hCmd, keepCmd⟩ := decodeCommandPart_next directed
  have keep : ChangesOnlyWork (startScan tsE s) decoded :=
    ((keepScan.trans (endScan_changesOnlyWork scanned)).trans keepDir).trans keepCmd
  have hparams' : t.params = decoded.params := by
    obtain ⟨w, -, rfl⟩ := keep
    exact hparams
  have hScan' := scanBytes_grafts t tsE' _ _ _ hScan
  have hDir' := decodeDirectionPart_grafts t tsE' _ _ hDir
  have hCmd' := decodeCommandPart_grafts t tsE' _ _ hCmd
  refine ⟨workBody decoded.work, ?_, ?_⟩
  · simp only [execFrCloseEmit, hScan, hDir, hCmd, next_andThen, finishFrame_of_changesOnlyWork keep]
  · simp only [execFrCloseEmit, hbuf, startScan_eq_graft hparams tsE, hScan', endScan_graft, hDir', hCmd', next_andThen,
      finishFrame_graft hparams']

end Sys2Proof.Machine
end

section
/-! SUPPORT. Two blocks at rest that differ in their timestamps only, by a renaming, stay so along every run (R26, R276). -/

namespace Sys2Proof.Safety

open Sys2Proof.Machine

/-- `t` is `s` with the timestamps renamed that a later record can show: `TS0` while a frame is open, and those still to be
fed. The record of the last step is left aside. -/
structure SameButTimes (f : Timestamp → Timestamp) (s t : State) : Prop where
  restLeft : AtRest s
  restRight : AtRest t
  params : t.params = s.params
  st : t.st = s.st
  buf : t.buf = s.buf
  ts0 : s.st = .inFrame → t.ts0 = f s.ts0
  input : t.input = s.input.map (renameEvent f)

/-- The same, and the records of the last step are renamed too. -/
structure Renamed (f : Timestamp → Timestamp) (s t : State) : Prop extends SameButTimes f s t where
  out : t.out = s.out.map (renameRecord f)

/-- Both go on, to renamed states, or both refuse for the same reason. -/
inductive OutcomesRenamed (f : Timestamp → Timestamp) : Result → Result → Prop
  | next {s t : State} (h : Renamed f s t) : OutcomesRenamed f (.next s) (.next t)
  | refused (r : Refusal) : OutcomesRenamed f (.refused r) (.refused r)

section
variable {f : Timestamp → Timestamp} {s t : State}

theorem SameButTimes.idleStep (h : SameButTimes f s t) : Renamed f (idleStep s) (idleStep t) :=
  ⟨⟨h.restLeft, h.restRight, h.params, h.st, h.buf, h.ts0, h.input⟩, rfl⟩

theorem SameButTimes.popEvent (h : SameButTimes f s t) : SameButTimes f (popEvent s) (popEvent t) :=
  ⟨h.restLeft, h.restRight, h.params, h.st, h.buf, h.ts0, by simp [h.input]⟩

/-- `TS0` after reset is one and the same value, not a renamed one; no frame is open that would show it (R33). -/
theorem SameButTimes.resetEvent (h : SameButTimes f s t) : Renamed f (resetEvent s) (resetEvent t) :=
  ⟨⟨rfl, rfl, h.params, rfl, rfl, by simp, h.input⟩, rfl⟩

theorem Renamed.openFrame (h : Renamed f s t) (tsS : Timestamp) : Renamed f (openFrame tsS s) (openFrame (f tsS) t) :=
  ⟨⟨h.restLeft, h.restRight, h.params, rfl, rfl, fun _ => rfl, h.input⟩, h.out⟩

theorem Renamed.closeFrame (h : Renamed f s t) : Renamed f (closeFrame s) (closeFrame t) :=
  ⟨⟨h.restLeft, h.restRight, h.params, rfl, rfl, by simp, h.input⟩, h.out⟩

theorem Renamed.emitRecord (h : Renamed f s t) (hst : s.st = .inFrame) (tsE : Timestamp) (body : Body) :
    Renamed f (emitRecord tsE body s) (emitRecord (f tsE) body t) :=
  ⟨⟨rfl, rfl, h.params, h.st, h.buf, h.ts0, h.input⟩, by simp [renameRecord, h.ts0 hst]⟩

theorem Renamed.appendByte (h : Renamed f s t) (b : Byte) : Renamed f (appendByte b s) (appendByte b t) :=
  ⟨⟨h.restLeft, h.restRight, h.params, h.st, by simp [h.buf], h.ts0, h.input⟩, h.out⟩

theorem Renamed.hasRoom_eq (h : Renamed f s t) : hasRoom t = hasRoom s := by
  simp only [hasRoom, h.params, h.buf]

theorem Renamed.execFrCloseEmit (h : Renamed f s t) (hst : s.st = .inFrame) (tsE : Timestamp) :
    OutcomesRenamed f (execFrCloseEmit tsE s) (execFrCloseEmit (f tsE) t) := by
  obtain ⟨body, hs, ht⟩ := execFrCloseEmit_sameBody h.params h.buf tsE (f tsE)
  rw [hs, ht]
  exact .next (h.emitRecord hst tsE body).closeFrame

theorem Renamed.execFrAppend (h : Renamed f s t) (b : Byte) :
    OutcomesRenamed f (execFrAppend b s) (execFrAppend b t) := by
  unfold Machine.execFrAppend
  rw [h.hasRoom_eq]
  split
  · exact .next (h.appendByte b)
  · exact .refused .bufferFull

/-- A stream byte, which selects the same operation of the framer in both, up to the timestamp it takes (R82). -/
theorem Renamed.exec_decodeStream (h : Renamed f s t) (b : Byte) (tsS tsE : Timestamp) :
    OutcomesRenamed f (exec (decodeStream s.st s.buf.length tsS tsE b) s)
      (exec (decodeStream s.st s.buf.length (f tsS) (f tsE) b) t) := by
  unfold decodeStream
  by_cases hb : b = Config.delim
  · rw [if_pos hb, if_pos hb]
    cases hst : s.st with
    | idle => exact .next (h.openFrame tsS)
    | inFrame =>
      by_cases hlen : s.buf.length < Config.minRaw
      · simp only [if_pos hlen]
        exact .next h.closeFrame
      · simp only [if_neg hlen]
        exact h.execFrCloseEmit hst tsE
  · rw [if_neg hb, if_neg hb]
    cases s.st with
    | idle => exact .next h
    | inFrame => exact h.execFrAppend b

theorem SameButTimes.step (h : SameButTimes f s t) : OutcomesRenamed f (step s) (step t) := by
  have hs := phase_of_atRest h.restLeft
  have ht := phase_of_atRest h.restRight
  have hinput := h.input
  match hi : s.input with
  | [] =>
    rw [hi] at hinput
    simp only [Machine.step, fetch_waiting s hs hi, fetch_waiting t ht hinput]
    exact .next h.idleStep
  | .reset :: rest =>
    rw [hi] at hinput
    simp only [Machine.step, fetch_reset s rest hs hi, fetch_reset t _ ht hinput]
    exact .next h.popEvent.resetEvent
  | .feed b tsS tsE :: rest =>
    rw [hi] at hinput
    rw [step_feed_atRest h.restLeft hi, step_feed_atRest h.restRight hinput, h.st, h.buf]
    exact h.popEvent.idleStep.exec_decodeStream b tsS tsE

end

theorem records_run_of_next {s s' : State} (k : Nat) (hs : step s = .next s') :
    (run (k + 1) s).map Prod.fst = ((run k s').map Prod.fst).map (s'.out.toList ++ ·) := by
  simp only [run, hs, Option.map_map]
  rfl

theorem run_of_refused {s : State} {r : Refusal} (k : Nat) (hs : step s = .refused r) : run (k + 1) s = none := by
  simp only [run, hs]

/-- Two runs in step: the records of the second are the renamed records of the first, if it goes on. -/
theorem SameButTimes.run_records {f : Timestamp → Timestamp} (k : Nat) : ∀ {s t : State}, SameButTimes f s t →
    (run k t).map Prod.fst = ((run k s).map Prod.fst).map fun rs => rs.map (renameRecord f) := by
  induction k with
  | zero =>
    intro s t _
    rfl
  | succ k ih =>
    intro s t h
    have hstep := h.step
    generalize hs : Machine.step s = left at hstep
    generalize ht : Machine.step t = right at hstep
    cases hstep with
    | @next s' t' h' =>
      have hout : t'.out.toList = s'.out.toList.map (renameRecord f) := by rw [h'.out, Option.toList_map]
      simp only [records_run_of_next k hs, records_run_of_next k ht, ih h'.toSameButTimes, hout, Option.map_map,
        Function.comp_def, List.map_append]
    | refused r => rw [run_of_refused k hs, run_of_refused k ht]; rfl

/-- Settles O25: from `Idle` the two streams begin in blocks that differ in timestamps only. -/
theorem timestampsAreOnlyCopied : Obligations.TimestampsAreOnlyCopied := by
  intro f s es hrest hidle
  have start : SameButTimes f { s with input := es } { s with input := es.map (renameEvent f) } :=
    ⟨hrest, hrest, rfl, rfl, rfl, fun hst => (by cases hidle.symm.trans hst), rfl⟩
  simpa [recordsOf, drain] using start.run_records es.length

end Sys2Proof.Safety
end

section
/-! SUPPORT. The memory of the block: what the one store to `BUF` leaves as it was (R56), and what a multi-byte read gives
(R55). -/

namespace Sys2Proof.Machine

/-! ## The store -/

/-- `FR.APPEND` goes on in one way only, the append (R124). -/
theorem eq_appendByte_of_exec_frAppend {b : Byte} {s t : State} (h : exec (.frAppend b) s = .next t) :
    t = appendByte b s := by
  simp only [exec, execFrAppend] at h
  split at h
  · cases h; rfl
  · cases h

theorem ChangesOnlyWork.buf_eq {s t : State} (h : ChangesOnlyWork s t) : t.buf = s.buf := by
  obtain ⟨w, -, rfl⟩ := h
  rfl

/-- What the ways in which an operation goes on do to `BUF`: the opening and the closes clear it (R121 to R123), `FR.APPEND`
appends (R124), and the others keep it. -/
theorem ExecStep.buf_cases {i : Instr} {s t : State} (h : ExecStep s i t) :
    t.buf = [] ∨ t.buf = s.buf ∨ ∃ b, i = .frAppend b ∧ t.buf = s.buf ++ [b] := by
  cases h with
  | opens | discards | emits => exact .inl rfl
  | appends b => exact .inr (.inr ⟨b, rfl, rfl⟩)
  | ignores => exact .inr (.inl rfl)
  | decodes _ _ keep => exact .inr (.inl keep.buf_eq)

/-- Settles O13: the append stores one byte at the end, and no other operation stores. -/
theorem onlyStoreIsTheAppend : Obligations.OnlyStoreIsTheAppend := by
  refine ⟨fun b s t h => ?_, fun i s t h => (execStep_of_exec h).buf_cases⟩
  obtain rfl := eq_appendByte_of_exec_frAppend h
  obtain ⟨hstored, hother⟩ := readByte_appendByte b s
  exact ⟨hstored, by simp, hother⟩

/-! ## The read -/

theorem memRead_succ_eq_none_iff (m : Memory) (a n : Nat) :
    memRead m a (n + 1) = none ↔ readByte m a = none ∨ memRead m (a + 1) n = none := by
  rw [memRead]
  cases readByte m a <;> cases memRead m (a + 1) n <;> simp

/-- A read is undefined exactly when it has a byte to read beyond the end. -/
theorem memRead_eq_none_iff (m : Memory) (a n : Nat) : memRead m a n = none ↔ n ≠ 0 ∧ m.length < a + n := by
  induction n generalizing a with
  | zero => simp [memRead]
  | succ n ih =>
    rw [memRead_succ_eq_none_iff, readByte_eq_none_iff, ih]
    omega

section
variable {m : Memory} {a : Nat} {b0 b1 b2 b3 : Byte}

theorem memRead_one (h0 : readByte m a = some b0) : memRead m a 1 = some b0.toNat :=
  memRead_succ m a 0 b0 0 h0 rfl

theorem memRead_two (h0 : readByte m a = some b0) (h1 : readByte m (a + 1) = some b1) :
    memRead m a 2 = some (b0.toNat + 256 * b1.toNat) :=
  memRead_succ m a 1 b0 _ h0 (memRead_one h1)

/-- The two lower bytes stand below the two upper ones, which are a read of width 2. -/
theorem memRead_four (h0 : readByte m a = some b0) (h1 : readByte m (a + 1) = some b1)
    (h2 : readByte m (a + 2) = some b2) (h3 : readByte m (a + 3) = some b3) :
    memRead m a 4 = some (b0.toNat + 256 * b1.toNat + 256 ^ 2 * b2.toNat + 256 ^ 3 * b3.toNat) := by
  have hupper : memRead m (a + 2) 2 = some (b2.toNat + 256 * b3.toNat) := memRead_two h2 h3
  have hread := memRead_succ m a 3 b0 _ h0 (memRead_succ m (a + 1) 2 b1 _ h1 hupper)
  rw [hread]
  congr 1
  ring

end

/-- Settles O41: definedness by induction on the width, and the three widths from the one recursion, a byte below the rest. -/
theorem memReadIsLittleEndian : Obligations.MemReadIsLittleEndian := by
  intro u a
  exact ⟨memRead_eq_none_iff u a, fun _ => memRead_one, fun _ _ => memRead_two, fun _ _ _ _ => memRead_four⟩

end Sys2Proof.Machine
end

section
/-! SUPPORT. What a step fetches in each phase, and the step on it (R80, R120; log entry 7). -/

namespace Sys2Proof.Machine

/-! ## Fetching inside a decode -/

section
variable {s : State}

theorem fetch_scan {x : Byte} (hp : s.work.phase = .scan) (hx : readByte s.buf s.work.pos = some x) :
    fetch s = .operation (.rb s.work.ep) x := by
  simp [fetch, hp, hx]

theorem fetch_scanEnd (hp : s.work.phase = .scan) (hx : readByte s.buf s.work.pos = none) : fetch s = .scanEnd := by
  simp [fetch, hp, hx]

theorem fetch_dir (hp : s.work.phase = .dir) : fetch s = .operation .dir s.work.dir := by
  simp [fetch, hp]

theorem fetch_cmd (hp : s.work.phase = .cmd) : fetch s = .operation .cmd s.work.cmd := by
  simp [fetch, hp]

theorem fetch_done (hp : s.work.phase = .done) : fetch s = .frameEnd := by
  simp [fetch, hp]

/-- An operation of a decode in progress takes nothing from the host. -/
theorem beforeExec_of_ne_rest (hp : s.work.phase ≠ .rest) : beforeExec s = s := by
  cases h : s.work.phase with
  | rest => exact absurd h hp
  | scan | dir | cmd | done => simp only [beforeExec, h]

/-! ## The step on what is fetched -/

theorem step_of_operation {c : Context} {b : Byte} (h : fetch s = .operation c b) :
    step s = exec (decode c b) (beforeExec s) := by
  simp only [step, h]

/-- A unit inside a decode: its operation runs on the state as it is. -/
theorem step_inside_decode {c : Context} {b : Byte} (hp : s.work.phase ≠ .rest) (h : fetch s = .operation c b) :
    step s = exec (decode c b) s := by
  rw [step_of_operation h, beforeExec_of_ne_rest hp]

theorem step_of_scanEnd (h : fetch s = .scanEnd) : step s = .next (endScan s) := by
  simp only [step, h]

theorem step_of_frameEnd (h : fetch s = .frameEnd) : step s = .next (finishFrame s) := by
  simp only [step, h]

end

/-- Settles O4: one clause for each phase, and two for the scan, which has a byte left or none. -/
theorem stepRunsTheDecodedOperation : Obligations.StepRunsTheDecodedOperation := by
  refine ⟨fun s b tsS tsE rest hp hi => ?rest, fun s x hp hx => ?scan, fun s hp => ?dir, fun s hp => ?cmd,
    fun s hp hx => step_of_scanEnd (fetch_scanEnd hp hx), fun s hp => step_of_frameEnd (fetch_done hp)⟩
  case rest => rw [step_of_operation (fetch_feed s b tsS tsE rest hp hi), beforeExec_rest s hp, hi, List.tail_cons]
  case scan => exact step_inside_decode (by simp [hp]) (fetch_scan hp hx)
  case dir => exact step_inside_decode (by simp [hp]) (fetch_dir hp)
  case cmd => exact step_inside_decode (by simp [hp]) (fetch_cmd hp)

end Sys2Proof.Machine
end

section
/-! SUPPORT. The decoder, an equation for each row of R82, R83, R88 and R90, and the row that an operation fits. -/

namespace Sys2Proof

/-! ## What the decoder selects, row by row -/

section
variable (len : Nat) (tsS tsE : Timestamp) {b x d c : Byte}

theorem decodeStream_idle_delim : decodeStream .idle len tsS tsE Config.delim = .frOpen tsS := rfl

theorem decodeStream_inFrame_delim_of_lt {len : Nat} (h : len < Config.minRaw) :
    decodeStream .inFrame len tsS tsE Config.delim = .frCloseDiscard := if_pos h

theorem decodeStream_inFrame_delim_of_le {len : Nat} (h : Config.minRaw ≤ len) :
    decodeStream .inFrame len tsS tsE Config.delim = .frCloseEmit tsE := if_neg (Nat.not_lt.2 h)

theorem decodeStream_inFrame_of_ne (h : b ≠ Config.delim) : decodeStream .inFrame len tsS tsE b = .frAppend b := if_neg h

theorem decodeStream_idle_of_ne (h : b ≠ Config.delim) : decodeStream .idle len tsS tsE b = .frIgnore b := if_neg h

theorem decodeRaw_true_escEnd : decodeRaw true Config.escEnd = .ueEnd := rfl

theorem decodeRaw_true_escEsc : decodeRaw true Config.escEsc = .ueEsc := rfl

theorem decodeRaw_true_of_ne (hend : x ≠ Config.escEnd) (hesc : x ≠ Config.escEsc) : decodeRaw true x = .ueDrop x :=
  (if_neg hend).trans (if_neg hesc)

theorem decodeRaw_false_esc : decodeRaw false Config.esc = .ueMark := rfl

theorem decodeRaw_false_of_ne (h : x ≠ Config.esc) : decodeRaw false x = .ueLit x := if_neg h

theorem decodeDirection_dirReq : decodeDirection Config.dirReq = .dirReq := rfl

theorem decodeDirection_dirResp : decodeDirection Config.dirResp = .dirResp := rfl

theorem decodeDirection_of_ne (hreq : d ≠ Config.dirReq) (hresp : d ≠ Config.dirResp) : decodeDirection d = .dirInvalid d :=
  (if_neg hreq).trans (if_neg hresp)

theorem decodeCommand_of_lookup {i : Instr} (h : commandRows.lookup c = some i) : decodeCommand c = i := by
  rw [decodeCommand, h, Option.getD_some]

theorem decodeCommand_of_notMem (h : c ∉ commandIds) : decodeCommand c = .cmdUnknown c := by
  rw [decodeCommand, Laws.commandRows_lookup_unmapped c h, Option.getD_none]

end

/-! ## The row that an operation fits -/

/-- The operation's row is met: its operand is one the row takes, the context is one it asks for, and the byte is its own. -/
structure FitsRow (i : Instr) (c : Context) (b : Byte) : Prop where
  wellFormed : i.wellFormed = true
  admits : i.admits c = true
  byte : encodeByte i = b

theorem isStream_iff {c : Context} {st : FramerState} {lenOk : Nat → Bool} :
    c.isStream st lenOk = true ↔ ∃ len tsS tsE, c = .sb st len tsS tsE ∧ lenOk len = true := by
  cases c <;> simp [Context.isStream, and_assoc]

theorem decodeStream_fitsRow (st : FramerState) (len : Nat) (tsS tsE : Timestamp) (b : Byte) :
    FitsRow (decodeStream st len tsS tsE b) (.sb st len tsS tsE) b := by
  by_cases hb : b = Config.delim
  · subst hb
    cases st with
    | idle =>
      rw [decodeStream_idle_delim]
      exact ⟨rfl, by simp [Instr.admits, Context.isStream, Context.startsAt], rfl⟩
    | inFrame =>
      rcases Nat.lt_or_ge len Config.minRaw with hlen | hlen
      · rw [decodeStream_inFrame_delim_of_lt tsS tsE hlen]
        exact ⟨rfl, by simp [Instr.admits, Context.isStream, hlen], rfl⟩
      · rw [decodeStream_inFrame_delim_of_le tsS tsE hlen]
        exact ⟨rfl, by simp [Instr.admits, Context.isStream, Context.endsAt, hlen], rfl⟩
  · cases st with
    | idle =>
      rw [decodeStream_idle_of_ne len tsS tsE hb]
      exact ⟨bne_iff_ne.2 hb, rfl, rfl⟩
    | inFrame =>
      rw [decodeStream_inFrame_of_ne len tsS tsE hb]
      exact ⟨bne_iff_ne.2 hb, rfl, rfl⟩

theorem decodeRaw_fitsRow (ep : Bool) (x : Byte) : FitsRow (decodeRaw ep x) (.rb ep) x := by
  cases ep with
  | true =>
    by_cases hend : x = Config.escEnd
    · exact hend ▸ ⟨rfl, rfl, rfl⟩
    · by_cases hesc : x = Config.escEsc
      · exact hesc ▸ ⟨rfl, rfl, rfl⟩
      · rw [decodeRaw_true_of_ne hend hesc]
        exact ⟨(Bool.and_eq_true _ _).mpr ⟨bne_iff_ne.2 hend, bne_iff_ne.2 hesc⟩, rfl, rfl⟩
  | false =>
    by_cases hmark : x = Config.esc
    · exact hmark ▸ ⟨rfl, rfl, rfl⟩
    · rw [decodeRaw_false_of_ne hmark]
      exact ⟨bne_iff_ne.2 hmark, rfl, rfl⟩

theorem decodeDirection_fitsRow (d : Byte) : FitsRow (decodeDirection d) .dir d := by
  by_cases hreq : d = Config.dirReq
  · exact hreq ▸ ⟨rfl, rfl, rfl⟩
  · by_cases hresp : d = Config.dirResp
    · exact hresp ▸ ⟨rfl, rfl, rfl⟩
    · rw [decodeDirection_of_ne hreq hresp]
      exact ⟨(Bool.and_eq_true _ _).mpr ⟨bne_iff_ne.2 hreq, bne_iff_ne.2 hresp⟩, rfl, rfl⟩

theorem mem_of_lookup_eq_some {α β : Type} [BEq α] [LawfulBEq α] {l : List (α × β)} {k : α} {v : β}
    (h : l.lookup k = some v) : (k, v) ∈ l := by
  obtain ⟨before, after, rfl, -⟩ := List.lookup_eq_some_iff.1 h
  simp

/-- The rows of R90 with an identifier of their own. -/
theorem fitsRow_of_mem_commandRows {r : Byte × Instr} (h : r ∈ commandRows) : FitsRow r.2 .cmd r.1 := by
  have hrows : ∀ r ∈ commandRows, r.2.wellFormed = true ∧ r.2.admits .cmd = true ∧ encodeByte r.2 = r.1 := by decide
  obtain ⟨hwf, hadm, hbyte⟩ := hrows r h
  exact ⟨hwf, hadm, hbyte⟩

theorem commandIds_eq_map_commandRows : commandIds = commandRows.map Prod.fst := rfl

theorem notMem_commandIds_of_lookup {c : Byte} (h : commandRows.lookup c = none) : c ∉ commandIds := by
  rw [List.lookup_eq_none_iff] at h
  rw [commandIds_eq_map_commandRows, List.mem_map]
  rintro ⟨r, hr, rfl⟩
  simpa using h r hr

theorem decodeCommand_fitsRow (c : Byte) : FitsRow (decodeCommand c) .cmd c := by
  cases h : commandRows.lookup c with
  | some i =>
    rw [decodeCommand_of_lookup h]
    exact fitsRow_of_mem_commandRows (mem_of_lookup_eq_some h)
  | none =>
    have hc := notMem_commandIds_of_lookup h
    rw [decodeCommand_of_notMem hc]
    exact ⟨by simp [Instr.wellFormed, hc], rfl, rfl⟩

/-- What a byte selects fits its row, at every level. -/
theorem decode_fitsRow (c : Context) (b : Byte) : FitsRow (decode c b) c b := by
  cases c with
  | sb st len tsS tsE => exact decodeStream_fitsRow st len tsS tsE b
  | rb ep => exact decodeRaw_fitsRow ep b
  | dir => exact decodeDirection_fitsRow b
  | cmd => exact decodeCommand_fitsRow b

/-- An operation whose row is met is the one selected, so no two rows are met together. Outside the stream level a row asks for
one context only; there, an operation with a byte of its own is read off that byte. -/
theorem decode_eq_of_fitsRow {i : Instr} {c : Context} {b : Byte} (h : FitsRow i c b) : decode c b = i := by
  obtain ⟨hwf, hadm, rfl⟩ := h
  cases i with
  | frOpen t =>
    obtain ⟨hst, ht⟩ := (Bool.and_eq_true _ _).mp hadm
    obtain ⟨len, tsS, tsE, rfl, -⟩ := isStream_iff.1 hst
    obtain rfl : tsS = t := of_decide_eq_true ht
    exact decodeStream_idle_delim len tsS tsE
  | frCloseDiscard =>
    obtain ⟨len, tsS, tsE, rfl, hlen⟩ := isStream_iff.1 hadm
    exact decodeStream_inFrame_delim_of_lt tsS tsE (of_decide_eq_true hlen)
  | frCloseEmit t =>
    obtain ⟨hst, ht⟩ := (Bool.and_eq_true _ _).mp hadm
    obtain ⟨len, tsS, tsE, rfl, hlen⟩ := isStream_iff.1 hst
    obtain rfl : tsE = t := of_decide_eq_true ht
    exact decodeStream_inFrame_delim_of_le tsS tsE (of_decide_eq_true hlen)
  | frAppend b =>
    obtain ⟨len, tsS, tsE, rfl, -⟩ := isStream_iff.1 hadm
    exact decodeStream_inFrame_of_ne len tsS tsE (bne_iff_ne.1 hwf)
  | frIgnore b =>
    obtain ⟨len, tsS, tsE, rfl, -⟩ := isStream_iff.1 hadm
    exact decodeStream_idle_of_ne len tsS tsE (bne_iff_ne.1 hwf)
  | ueDrop x =>
    obtain rfl := eq_of_beq hadm
    obtain ⟨hend, hesc⟩ := (Bool.and_eq_true _ _).mp hwf
    exact decodeRaw_true_of_ne (bne_iff_ne.1 hend) (bne_iff_ne.1 hesc)
  | ueLit x =>
    obtain rfl := eq_of_beq hadm
    exact decodeRaw_false_of_ne (bne_iff_ne.1 hwf)
  | dirInvalid d =>
    obtain rfl := eq_of_beq hadm
    obtain ⟨hreq, hresp⟩ := (Bool.and_eq_true _ _).mp hwf
    exact decodeDirection_of_ne (bne_iff_ne.1 hreq) (bne_iff_ne.1 hresp)
  | cmdUnknown c =>
    obtain rfl := eq_of_beq hadm
    have hc : c ∉ commandIds := by simpa [Instr.wellFormed] using hwf
    exact decodeCommand_of_notMem hc
  | _ =>
    obtain rfl := eq_of_beq hadm
    rfl

/-- Settles O6: an operation fits its row exactly where the decoder selects it. -/
theorem decodeAndEncodeAgree : Obligations.DecodeAndEncodeAgree := by
  refine ⟨fun i c rest hwf hadm => ?_, fun c b => ?_⟩
  · simp only [encode, List.singleton_append, decodeBytes, decode_eq_of_fitsRow ⟨hwf, hadm, rfl⟩]
  · obtain ⟨hwf, hadm, hbyte⟩ := decode_fitsRow c b
    exact ⟨hwf, hadm, congrArg (fun b => [b]) hbyte⟩

/-- Settles O5: the bytes are fixed, and so is what decides in each context, so each evaluates. -/
theorem sampleBytesDecode : Obligations.SampleBytesDecode :=
  ⟨fun _ _ => rfl, fun _ _ => rfl, fun _ _ => rfl, rfl, rfl, rfl, rfl, rfl, rfl, rfl, rfl, rfl, rfl, rfl, rfl⟩

end Sys2Proof
end

section
/-! SUPPORT. The attributes of the command identifiers (R7, R89, R90), and the opcode table's reading (R95), format by
format. -/

namespace Sys2Proof.Machine

open Sys2Proof.Config (Params)

/-! ## The attributes `ck`, `rr` and `known` -/

theorem commandKnown_iff (p : Params) (c : Byte) : commandKnown p c = true ↔ c ∈ p.cmdTable.map Prod.fst := by
  simp [commandKnown, commandName]

theorem commandIds_eq_map_defaultCmdTable : commandIds = defaultCmdTable.map Prod.fst := rfl

theorem commandKnown_default_iff (c : Byte) : commandKnown defaultParams c = true ↔ c ∈ commandIds :=
  commandKnown_iff defaultParams c

theorem commandCk_default_iff (c : Byte) : commandCk defaultParams c = true ↔ c = 0x03 ∨ c = 0x07 ∨ c = 0x11 := by
  simp [commandCk, defaultParams]

theorem commandRr_default_iff (c : Byte) : commandRr defaultParams c = true ↔ c = 0x0A := by
  simp [commandRr, defaultParams]

/-- The constraints of R7 on the two commands that every instantiation agrees on. -/
theorem checksumAndSync_of_wellFormed {p : Params} (h : p.wellFormed = true) :
    commandCk p 0x03 = true ∧ commandCk p 0x08 = false ∧ commandName p 0x08 = some "SYNC" := by
  simp only [Params.wellFormed, Bool.and_eq_true, Bool.not_eq_true', decide_eq_true_eq] at h
  obtain ⟨⟨⟨⟨⟨hckA, -⟩, -⟩, hsync⟩, -⟩, hname⟩ := h
  exact ⟨hckA, hsync, hname⟩

/-- Settles O53: the defaults are read off the parameters, and what holds in every instantiation is a constraint of R7. -/
theorem defaultCommandAttributes : Obligations.DefaultCommandAttributes :=
  ⟨commandCk_default_iff, commandRr_default_iff, commandKnown_default_iff, by decide,
    fun _ => checksumAndSync_of_wellFormed⟩

/-- An identifier without a row of its own has none of the three attributes in the default instantiation. -/
theorem default_attributes_of_notMem {c : Byte} (h : c ∉ commandIds) :
    commandCk defaultParams c = false ∧ commandRr defaultParams c = false ∧ commandKnown defaultParams c = false := by
  refine ⟨Bool.eq_false_iff.2 fun hck => h ?_, Bool.eq_false_iff.2 fun hrr => h ?_,
    Bool.eq_false_iff.2 fun hknown => h ((commandKnown_default_iff c).1 hknown)⟩
  · rcases (commandCk_default_iff c).1 hck with rfl | rfl | rfl <;> decide
  · obtain rfl := (commandRr_default_iff c).1 hrr
    decide

end Sys2Proof.Machine

namespace Sys2Proof

open Sys2Proof.Config (Params)
open Sys2Proof.Machine

/-! ## The table's rows -/

/-- The format in which a context's byte is read. -/
def Context.format : Context → Format
  | .sb _ _ _ _ => .sb
  | .rb _ => .rb
  | .dir => .pkDir
  | .cmd => .pkCmd

/-- A row of another format never holds. -/
theorem rowHolds_of_format_ne (p : Params) {c : Context} (v : Byte) {r : TableRow} (h : r.format ≠ c.format) :
    rowHolds p c v r = false := by
  cases c <;> simp only [Context.format] at h <;> simp [rowHolds, h]

/-- The mask of a row with a byte of its own. -/
@[simp] theorem and_fullMask (v : Byte) : v &&& 0xFF#8 = v := BitVec.and_allOnes

/-- The row of an identifier of its own, with the attributes that the identifier has in this instantiation. -/
def ownRow (p : Params) (r : Byte × Instr) : TableRow := commandRow r.1 (commandCk p r.1) (commandRr p r.1) r.2

/-- The last row, for all other identifiers. -/
def unknownRow : TableRow :=
  { format := .pkCmd, pattern := 0x00, mask := 0x00, ck := some false, rr := some false, known := some false,
    op := fun c _ _ => .cmdUnknown c }

/-- The attributes that the table writes in its rows are those of the default instantiation. -/
theorem tableCommands_eq : tableCommands = commandRows.map (ownRow defaultParams) ++ [unknownRow] := rfl

theorem rowHolds_ownRow {p : Params} {r : Byte × Instr} (hknown : commandKnown p r.1 = true) (v : Byte) :
    rowHolds p .cmd v (ownRow p r) = (v == r.1) := by
  by_cases h : v = r.1
  · subst h
    simp [rowHolds, ownRow, commandRow, meets, hknown]
  · simp [rowHolds, ownRow, commandRow, h]

/-- Among rows of known identifiers the first match is the lookup of the identifier. -/
theorem find?_ownRows (p : Params) (v : Byte) (rows : List (Byte × Instr)) (hknown : ∀ r ∈ rows, commandKnown p r.1 = true) :
    (rows.map (ownRow p)).find? (rowHolds p .cmd v) = (rows.lookup v).map fun i => ownRow p (v, i) := by
  induction rows with
  | nil => rfl
  | cons r rows ih =>
    rw [List.forall_mem_cons] at hknown
    rw [List.map_cons, List.find?_cons, rowHolds_ownRow hknown.1, List.lookup_cons]
    by_cases h : v = r.1
    · rw [h, beq_self_eq_true]
      rfl
    · rw [beq_false_of_ne h]
      exact ih hknown.2

theorem rowHolds_unknownRow {v : Byte} (h : v ∉ commandIds) : rowHolds defaultParams .cmd v unknownRow = true := by
  obtain ⟨hck, hrr, hknown⟩ := default_attributes_of_notMem h
  simp [rowHolds, unknownRow, meets, hck, hrr, hknown]

theorem tableDecode_cmd (v : Byte) : tableDecode defaultParams .cmd v = some (decodeCommand v) := by
  have hupper : tableUpper.find? (rowHolds defaultParams .cmd v) = none := by
    refine List.find?_eq_none.2 fun r hr => ?_
    have hformat : ∀ r ∈ tableUpper, r.format ≠ .pkCmd := by simp [tableUpper]
    simp [rowHolds_of_format_ne (c := .cmd) _ v (hformat r hr)]
  have hknown : ∀ r ∈ commandRows, commandKnown defaultParams r.1 = true := by decide
  rw [tableDecode, List.find?_append, hupper, Option.none_or, tableCommands_eq, List.find?_append,
    find?_ownRows defaultParams v commandRows hknown]
  cases h : commandRows.lookup v with
  | some i =>
    rw [decodeCommand_of_lookup h]
    rfl
  | none =>
    have hv := notMem_commandIds_of_lookup h
    rw [decodeCommand_of_notMem hv, List.find?_cons_of_pos (rowHolds_unknownRow hv)]
    rfl

theorem tableDecode_sb (p : Params) (st : FramerState) (len : Nat) (tsS tsE : Timestamp) (v : Byte) :
    tableDecode p (.sb st len tsS tsE) v = some (decodeStream st len tsS tsE v) := by
  by_cases hv : v = Config.delim
  · subst hv
    cases st with
    | idle => rfl
    | inFrame =>
      rcases Nat.lt_or_ge len Config.minRaw with hlen | hlen
      · rw [decodeStream_inFrame_delim_of_lt tsS tsE hlen]
        simp [tableDecode, tableUpper, rowHolds, meets, meetsLen, hlen]
      · rw [decodeStream_inFrame_delim_of_le tsS tsE hlen]
        simp [tableDecode, tableUpper, rowHolds, meets, meetsLen, hlen]
  · have hbyte : v ≠ 0xC0#8 := hv
    cases st with
    | idle =>
      rw [decodeStream_idle_of_ne len tsS tsE hv]
      simp [tableDecode, tableUpper, rowHolds, meets, meetsLen, hbyte]
    | inFrame =>
      rw [decodeStream_inFrame_of_ne len tsS tsE hv]
      simp [tableDecode, tableUpper, rowHolds, meets, meetsLen, hbyte]

theorem tableDecode_rb (p : Params) (ep : Bool) (x : Byte) : tableDecode p (.rb ep) x = some (decodeRaw ep x) := by
  cases ep with
  | true =>
    by_cases hend : x = Config.escEnd
    · exact hend ▸ rfl
    · by_cases hesc : x = Config.escEsc
      · exact hesc ▸ rfl
      · have hbytes : x ≠ 0xDC#8 ∧ x ≠ 0xDD#8 := ⟨hend, hesc⟩
        rw [decodeRaw_true_of_ne hend hesc]
        simp [tableDecode, tableUpper, rowHolds, meets, hbytes]
  | false =>
    by_cases hmark : x = Config.esc
    · exact hmark ▸ rfl
    · have hbyte : x ≠ 0xDB#8 := hmark
      rw [decodeRaw_false_of_ne hmark]
      simp [tableDecode, tableUpper, rowHolds, meets, hbyte]

theorem tableDecode_dir (p : Params) (d : Byte) : tableDecode p .dir d = some (decodeDirection d) := by
  by_cases hreq : d = Config.dirReq
  · exact hreq ▸ rfl
  · by_cases hresp : d = Config.dirResp
    · exact hresp ▸ rfl
    · have hbytes : d ≠ 0x00#8 ∧ d ≠ 0x01#8 := ⟨hreq, hresp⟩
      rw [decodeDirection_of_ne hreq hresp]
      simp [tableDecode, tableUpper, rowHolds, hbytes]

/-- Settles O7: level by level; only at the command level does the instantiation take part. -/
theorem tableReadingSelectsTheSameOperation : Obligations.TableReadingSelectsTheSameOperation := by
  intro c b
  cases c with
  | sb st len tsS tsE => exact tableDecode_sb defaultParams st len tsS tsE b
  | rb ep => exact tableDecode_rb defaultParams ep b
  | dir => exact tableDecode_dir defaultParams b
  | cmd => exact tableDecode_cmd b

end Sys2Proof
end

section
/-! SUPPORT. The operations of levels 2 and 3, run on the buffer of a closing frame, compute `decode(unescape(BUF))` of the
reference (R123, R140, R160). -/

namespace Sys2Proof.Machine

open Sys2Proof.Config (Params)

/-! ## The scan -/

/-- One operation of the scan is one turn of the loop of `unescape` (R140 to R145). -/
theorem execPart_decodeRaw (x : Byte) (s : State) :
    ∃ bytes ep, execPart (decodeRaw s.work.ep x) s = .next (scanOne bytes ep s) ∧
      ∀ rest, unescapeFrom s.work.ep (x :: rest) = bytes ++ unescapeFrom ep rest := by
  cases hep : s.work.ep with
  | true =>
    by_cases hend : x = Config.escEnd
    · subst hend
      exact ⟨[Config.delim], false, rfl, fun _ => rfl⟩
    · by_cases hesc : x = Config.escEsc
      · subst hesc
        exact ⟨[Config.esc], false, rfl, fun _ => rfl⟩
      · rw [decodeRaw_true_of_ne hend hesc]
        exact ⟨[], false, rfl, fun _ => (if_neg hend).trans (if_neg hesc)⟩
  | false =>
    by_cases hmark : x = Config.esc
    · subst hmark
      exact ⟨[], true, rfl, fun _ => rfl⟩
    · rw [decodeRaw_false_of_ne hmark]
      exact ⟨[x], s.work.ep, rfl, fun _ => by rw [hep]; exact if_neg hmark⟩

/-- The scan appends what `unescape` gives of the bytes, and advances `i` over them. -/
theorem scanBytes_eq (bytes : List Byte) (s : State) :
    ∃ ep, scanBytes bytes s = .next { s with work := { s.work with
      u := s.work.u ++ unescapeFrom s.work.ep bytes, ep := ep, pos := s.work.pos + bytes.length } } := by
  induction bytes generalizing s with
  | nil => exact ⟨s.work.ep, by simp [scanBytes, unescapeFrom]⟩
  | cons x rest ih =>
    obtain ⟨emitted, ep, hexec, hunescape⟩ := execPart_decodeRaw x s
    obtain ⟨ep', hrest⟩ := ih (scanOne emitted ep s)
    refine ⟨ep', ?_⟩
    rw [scanBytes, hexec, next_andThen, hrest, hunescape]
    simp [scanOne, Nat.add_assoc, Nat.add_comm 1]

theorem u_of_scanBytes {bytes : List Byte} {s t : State} (h : scanBytes bytes s = .next t) :
    t.work.u = s.work.u ++ unescapeFrom s.work.ep bytes := by
  obtain ⟨ep, hscan⟩ := scanBytes_eq bytes s
  cases hscan.symm.trans h
  rfl

/-! ## The direction and the command -/

theorem execPart_decodeDirection_of_some {s : State} {isResp : Bool} {sel : FldSel} {shown : Quad}
    (h : directionFields s.params s.work.dir s.work.cmd s.work.fld = some (isResp, sel, shown)) :
    execPart (decodeDirection s.work.dir) s = .next (setDirection isResp sel shown s) := by
  unfold directionFields at h
  split at h
  next hreq =>
    cases h
    rw [hreq]
    rfl
  next =>
    split at h
    next hresp =>
      rw [hresp]
      show execDirResp s = _
      split at h
      next hrr =>
        cases h
        exact if_pos (beq_iff_eq.2 hrr)
      next hrr =>
        cases h
        exact if_neg (mt beq_iff_eq.1 hrr)
    next => cases h

theorem execPart_decodeDirection_of_none {s : State}
    (h : directionFields s.params s.work.dir s.work.cmd s.work.fld = none) :
    execPart (decodeDirection s.work.dir) s = .next (raiseError .badDirection s) := by
  unfold directionFields at h
  split at h
  next => cases h
  next hreq =>
    split at h
    next =>
      split at h
      all_goals cases h
    next hresp =>
      rw [decodeDirection_of_ne hreq hresp]
      rfl

/-- Every operation of the command level is the one that R195 gives its identifier. -/
theorem execPart_of_fitsRow_cmd {i : Instr} {c : Byte} (h : FitsRow i .cmd c) (s : State) :
    execPart i s = .next (applyCommand c s) := by
  obtain ⟨-, hadmits, rfl⟩ := h
  cases i with
  | frOpen | frCloseDiscard | frCloseEmit | frAppend | frIgnore | ueEnd | ueEsc | ueDrop | ueMark | ueLit | dirReq
  | dirResp | dirInvalid => cases hadmits
  | _ => rfl

theorem execPart_decodeCommand (c : Byte) (s : State) : execPart (decodeCommand c) s = .next (applyCommand c s) :=
  execPart_of_fitsRow_cmd (decodeCommand_fitsRow c) s

/-! ## The diagnostics, in the reference's own terms -/

theorem quadWord_bne (acc : Byte) (q : Quad) : (acc.zeroExtend 32 != quadWord q) =
    (acc.toNat != q.b0.toNat + 2 ^ 8 * q.b1.toNat + 2 ^ 16 * q.b2.toNat + 2 ^ 24 * q.b3.toNat) := by
  have hacc : (acc.zeroExtend 32).toNat = acc.toNat := BitVec.toNat_setWidth_of_le (by decide)
  rw [Bool.eq_iff_iff, bne_iff_ne, bne_iff_ne, ne_eq, ne_eq, ← BitVec.toNat_inj, hacc, quadWord_toNat]

theorem lengthMismatch_eq (s0 s1 : Byte) (n : Nat) :
    lengthMismatch (BitVec.ofNat 16 (s0.toNat + 256 * s1.toNat)) n = (n != s0.toNat + 256 * s1.toNat) := by
  have h0 := s0.isLt
  have h1 := s1.isLt
  rw [lengthMismatch, BitVec.toNat_ofNat, Nat.mod_eq_of_lt (by omega)]

/-! ## The reference's `decode`, case by case -/

section
variable {p : Params} {d c s0 s1 f0 f1 f2 f3 : Byte} {payload : List Byte}

theorem decodePacket_of_short {u : List Byte} (h : u.length < 8) : decodePacket p u = .decodeFault := by
  unfold decodePacket
  split
  next => simp at h; omega
  next => rfl

theorem decodePacket_of_none (h : directionFields p d c ⟨f0, f1, f2, f3⟩ = none) :
    decodePacket p (d :: c :: s0 :: s1 :: f0 :: f1 :: f2 :: f3 :: payload) = .badDirection := by
  simp only [decodePacket, h]

/-- After a valid direction the command operation leaves the outcome that `decode` gives of the packet. -/
theorem workBody_applyCommand {isResp : Bool} {sel : FldSel} {shown : Quad} {s : State}
    (h : directionFields s.params d c ⟨f0, f1, f2, f3⟩ = some (isResp, sel, shown)) :
    workBody (applyCommand c (setDirection isResp sel shown (loadHeader
        { dir := d, cmd := c, size := BitVec.ofNat 16 (s0.toNat + 256 * s1.toNat), fld := ⟨f0, f1, f2, f3⟩
          payload := payload } s))).work =
      decodePacket s.params (d :: c :: s0 :: s1 :: f0 :: f1 :: f2 :: f3 :: payload) := by
  simp only [decodePacket, h, workBody, applyCommand, setDirection_params, loadHeader_params, setDirection_work,
    loadHeader_work, lengthMismatch_eq, Body.packet.injEq, Packet.mk.injEq, true_and]
  by_cases hck : c ∈ s.params.cksumSet ∧ 16 ≤ payload.length
  · obtain ⟨hmem, hlen⟩ := hck
    rw [checksum_verified _ _ _ _ hmem hlen]
    simp [hmem, hlen, quadWord_bne]
  · rw [checksum_skipped _ _ _ _ ((not_and_or.1 hck).imp_right Nat.lt_of_not_le)]
    have hunchecked : (s.params.cksumSet.contains c && decide (16 ≤ payload.length)) = false := by simpa using hck
    simp only [hunchecked, Bool.false_and, Bool.false_eq_true, if_false, and_self]

end

/-! ## The whole decode, and the close -/

/-- From the end of the scan on, the decode reaches the outcome that `decode` gives of `U`. -/
theorem decodeParts_eq (s : State) :
    ∃ directed decoded, decodeDirectionPart (endScan s) = .next directed ∧ decodeCommandPart directed = .next decoded ∧
      workBody decoded.work = decodePacket s.params s.work.u := by
  rcases header_or_short s.work.u with hshort | ⟨d, c, s0, s1, f0, f1, f2, f3, payload, hu⟩
  · rw [endScan_short s hshort, decodePacket_of_short hshort]
    exact ⟨_, _, rfl, rfl, rfl⟩
  · rw [endScan_header s _ (hu ▸ parseHeader_cons d c s0 s1 f0 f1 f2 f3 payload), decodeDirectionPart_of_dir rfl, hu]
    cases hdir : directionFields s.params d c ⟨f0, f1, f2, f3⟩ with
    | none =>
      rw [execPart_decodeDirection_of_none hdir, decodePacket_of_none hdir]
      exact ⟨_, _, rfl, rfl, rfl⟩
    | some fields =>
      obtain ⟨isResp, sel, shown⟩ := fields
      rw [execPart_decodeDirection_of_some hdir]
      exact ⟨_, _, rfl, (decodeCommandPart_of_cmd rfl).trans (execPart_decodeCommand _ _), workBody_applyCommand hdir⟩

theorem ChangesOnlyWork.params_eq {s t : State} (h : ChangesOnlyWork s t) : t.params = s.params := by
  obtain ⟨w, -, rfl⟩ := h
  rfl

theorem changesOnlyWork_of_decodeDirectionPart {s t : State} (h : decodeDirectionPart s = .next t) :
    ChangesOnlyWork s t := by
  obtain ⟨u, hu, keep⟩ := decodeDirectionPart_next s
  cases hu.symm.trans h
  exact keep

theorem changesOnlyWork_of_decodeCommandPart {s t : State} (h : decodeCommandPart s = .next t) :
    ChangesOnlyWork s t := by
  obtain ⟨u, hu, keep⟩ := decodeCommandPart_next s
  cases hu.symm.trans h
  exact keep

/-- `FR.CLOSE_EMIT` (R123): what `execFrCloseEmit_next` leaves open, the body, is `decode(unescape(BUF))`. -/
theorem execFrCloseEmit_eq (tsE : Timestamp) (s : State) : execFrCloseEmit tsE s =
    .next (closeFrame (emitRecord tsE (decodePacket s.params (unescape s.buf)) s)) := by
  obtain ⟨scanned, hscan, keepScan⟩ := scanBytes_next s.buf (startScan tsE s)
  obtain ⟨directed, decoded, hdir, hcmd, hbody⟩ := decodeParts_eq scanned
  have keep : ChangesOnlyWork (startScan tsE s) decoded :=
    ((keepScan.trans (endScan_changesOnlyWork scanned)).trans (changesOnlyWork_of_decodeDirectionPart hdir)).trans
      (changesOnlyWork_of_decodeCommandPart hcmd)
  have hu : scanned.work.u = unescape s.buf := u_of_scanBytes hscan
  have hparams : scanned.params = s.params := keepScan.params_eq
  simp only [execFrCloseEmit, hscan, next_andThen, hdir, hcmd, finishFrame_of_changesOnlyWork keep, hbody, hu, hparams]

end Sys2Proof.Machine
end

section
/-! SUPPORT. The framer: what each of its operations does in one step at rest, and that a step is `feed` (R120 to R125). -/

namespace Sys2Proof.Machine

open Sys2Proof.Safety

/-! ## One step on a transaction -/

/-- The record of a close that emits (R123). -/
def closeRecord (tsE : Timestamp) (s : State) : Record :=
  { tStart := s.ts0, tEnd := tsE, body := decodePacket s.params (unescape s.buf) }

section
variable {s : State} {b : Byte} {tsS tsE : Timestamp} {rest : List HostEvent}

theorem idleStep_popEvent {e : HostEvent} (hi : s.input = e :: rest) :
    idleStep (popEvent s) = { s with input := rest, out := none } := by
  simp only [popEvent, hi, List.tail_cons]
  rfl

/-- `step_feed_atRest`, with the state that the operation finds written out. -/
theorem step_feed (hrest : AtRest s) (hi : s.input = .feed b tsS tsE :: rest) :
    step s = exec (decodeStream s.st s.buf.length tsS tsE b) { s with input := rest, out := none } := by
  rw [step_feed_atRest hrest hi, idleStep_popEvent hi]

theorem step_opens (hrest : AtRest s) (hst : s.st = .idle) (hi : s.input = .feed Config.delim tsS tsE :: rest) :
    step s = .next { s with st := .inFrame, ts0 := tsS, buf := [], input := rest, out := none } := by
  rw [step_feed hrest hi, hst, decodeStream_idle_delim]
  rfl

theorem step_discards (hrest : AtRest s) (hst : s.st = .inFrame) (hlen : s.buf.length < Config.minRaw)
    (hi : s.input = .feed Config.delim tsS tsE :: rest) :
    step s = .next { s with st := .idle, buf := [], input := rest, out := none } := by
  rw [step_feed hrest hi, hst, decodeStream_inFrame_delim_of_lt tsS tsE hlen]
  rfl

theorem step_emits (hrest : AtRest s) (hst : s.st = .inFrame) (hlen : Config.minRaw ≤ s.buf.length)
    (hi : s.input = .feed Config.delim tsS tsE :: rest) :
    step s = .next { s with st := .idle, buf := [], input := rest, out := some (closeRecord tsE s) } := by
  have hwork : s.work = Work.rest := hrest
  rw [step_feed hrest hi, hst, decodeStream_inFrame_delim_of_le tsS tsE hlen]
  simp only [exec, execFrCloseEmit_eq, hwork]
  rfl

theorem step_ignores (hrest : AtRest s) (hst : s.st = .idle) (hb : b ≠ Config.delim)
    (hi : s.input = .feed b tsS tsE :: rest) : step s = .next { s with input := rest, out := none } := by
  rw [step_feed hrest hi, hst, decodeStream_idle_of_ne _ _ _ hb]
  rfl

theorem exec_frAppend_of_hasRoom (h : hasRoom s = true) :
    exec (.frAppend b) s = .next { s with buf := s.buf ++ [b] } := if_pos h

theorem exec_frAppend_of_full (h : hasRoom s = false) : exec (.frAppend b) s = .refused .bufferFull :=
  if_neg (Bool.eq_false_iff.1 h)

theorem step_appends (hrest : AtRest s) (hst : s.st = .inFrame) (hb : b ≠ Config.delim) (hroom : hasRoom s = true)
    (hi : s.input = .feed b tsS tsE :: rest) :
    step s = .next { s with buf := s.buf ++ [b], input := rest, out := none } := by
  rw [step_feed hrest hi, hst, decodeStream_inFrame_of_ne _ _ _ hb]
  exact exec_frAppend_of_hasRoom hroom

theorem step_refuses (hrest : AtRest s) (hst : s.st = .inFrame) (hb : b ≠ Config.delim) (hfull : hasRoom s = false)
    (hi : s.input = .feed b tsS tsE :: rest) : step s = .refused .bufferFull := by
  rw [step_feed hrest hi, hst, decodeStream_inFrame_of_ne _ _ _ hb]
  exact exec_frAppend_of_full hfull

/-! ## Room in the buffer -/

theorem hasRoom_of_unbounded (h : Unbounded s) : hasRoom s = true := by
  rw [hasRoom_iff]
  intro cap hcap
  cases h.symm.trans hcap

theorem hasRoom_eq_false_iff : hasRoom s = false ↔ ∃ cap, s.params.bufCap = some cap ∧ cap ≤ s.buf.length := by
  simp [← Bool.not_eq_true, hasRoom_iff]

/-- Where `LEN <= BUF_CAP`, the buffer is full exactly at `LEN = BUF_CAP` (R20, R124). -/
theorem hasRoom_eq_false_iff_of_inv (h : Inv s) : hasRoom s = false ↔ s.params.bufCap = some s.buf.length := by
  obtain ⟨-, hbound⟩ := (memory_wf_iff _ _).1 h.bufWf
  rw [hasRoom_eq_false_iff]
  constructor
  · rintro ⟨cap, hcap, hle⟩
    rw [hcap, Nat.le_antisymm hle (hbound cap hcap)]
  · exact fun hcap => ⟨_, hcap, le_rfl⟩

end

/-! ## The operations one by one -/

/-- Settles O3: with nothing fed the step is the idle step. -/
theorem withoutInputTheBlockHolds : Obligations.WithoutInputTheBlockHolds := by
  intro s hrest hi
  simp only [step, fetch_waiting s (phase_of_atRest hrest) hi]
  rfl

/-- Settles O9: the raw count alone selects the discard, which is a close and nothing else. -/
theorem shortFrameIsDiscarded : Obligations.ShortFrameIsDiscarded :=
  ⟨fun _ => rfl, fun _ tsS tsE hlen => decodeStream_inFrame_delim_of_lt tsS tsE hlen,
    fun _ _ _ _ hrest hst hlen hi => step_discards hrest hst hlen hi⟩

/-- Settles O10: the close's operations compute the reference's `decode(unescape(BUF))`. -/
theorem closingDelimiterEmitsTheDecodedFrame : Obligations.ClosingDelimiterEmitsTheDecodedFrame :=
  ⟨fun tsE s => execFrCloseEmit_eq tsE s, fun _ tsS tsE hlen => decodeStream_inFrame_delim_of_le tsS tsE hlen,
    fun _ _ _ _ hrest hst hlen hi => step_emits hrest hst hlen hi⟩

/-- Settles O11: whether there is room decides between the append and the refusal. -/
theorem byteInAFrameIsAppended : Obligations.ByteInAFrameIsAppended := by
  refine ⟨fun b s hcap => ?unbounded, fun b s cap hcap hlt => ?room, fun b s cap hcap hle => ?full,
    fun len tsS tsE b hb => decodeStream_inFrame_of_ne len tsS tsE hb⟩
  case unbounded => exact exec_frAppend_of_hasRoom (hasRoom_of_unbounded hcap)
  case room =>
    refine exec_frAppend_of_hasRoom ((hasRoom_iff s).2 fun cap' hcap' => ?_)
    cases hcap.symm.trans hcap'
    exact hlt
  case full => exact exec_frAppend_of_full (hasRoom_eq_false_iff.2 ⟨cap, hcap, hle⟩)

/-- Settles O12: in `Idle` only the delimiter selects another operation. -/
theorem byteOutsideAFrameIsIgnored : Obligations.ByteOutsideAFrameIsIgnored :=
  ⟨fun _ _ => rfl, fun len tsS tsE _ hb => decodeStream_idle_of_ne len tsS tsE hb,
    fun _ _ _ _ _ hrest hst hb hi => step_ignores hrest hst hb hi⟩

/-! ## The step is `feed` -/

/-- The step's outcome that an answer of `feed` stands for. -/
def outcomeOfFeed (s : State) (rest : List HostEvent) : Option (FramerView × Option Record) → Result
  | some (v, r) => .next { s with st := v.st, buf := v.buf, ts0 := v.ts0, input := rest, out := r }
  | none => .refused .bufferFull

/-- One case for each branch of `feed`: the framer's operations, and the refused append. -/
theorem step_eq_feed {s : State} {b : Byte} {tsS tsE : Timestamp} {rest : List HostEvent} (h : Inv s)
    (hi : s.input = .feed b tsS tsE :: rest) :
    step s = outcomeOfFeed s rest (feed s.params (view s) b tsS tsE) := by
  by_cases hb : b = Config.delim
  · subst hb
    cases hst : s.st with
    | idle =>
      rw [step_opens h.atRest hst hi]
      simp only [feed, view, hst, if_true, outcomeOfFeed]
    | inFrame =>
      by_cases hlen : s.buf.length < Config.minRaw
      · rw [step_discards h.atRest hst hlen hi]
        simp only [feed, view, hst, hlen, if_true, reduceCtorEq, if_false, outcomeOfFeed]
      · rw [step_emits h.atRest hst (Nat.le_of_not_lt hlen) hi]
        simp only [feed, view, hst, hlen, if_true, reduceCtorEq, if_false, outcomeOfFeed, closeRecord]
  · cases hst : s.st with
    | idle =>
      rw [step_ignores h.atRest hst hb hi]
      simp only [feed, view, hst, hb, reduceCtorEq, if_false, outcomeOfFeed]
    | inFrame =>
      cases hroom : hasRoom s with
      | true =>
        have hcap : s.params.bufCap ≠ some s.buf.length := by simp [← hasRoom_eq_false_iff_of_inv h, hroom]
        rw [step_appends h.atRest hst hb hroom hi]
        simp only [feed, view, hst, hb, hcap, if_true, if_false, outcomeOfFeed]
      | false =>
        have hcap : s.params.bufCap = some s.buf.length := (hasRoom_eq_false_iff_of_inv h).1 hroom
        rw [step_refuses h.atRest hst hb hroom hi]
        simp only [feed, view, hst, hb, hcap, if_true, if_false, outcomeOfFeed]

/-- Settles O16: the step is the outcome that `feed` stands for, whether `feed` answers or not. -/
theorem stepIsFeed : Obligations.StepIsFeed := by
  intro s b tsS tsE rest hinv hi
  have hstep := step_eq_feed hinv hi
  exact ⟨fun v r hfeed => by rw [hstep, hfeed]; rfl, fun hfeed => by rw [hstep, hfeed]; rfl⟩

end Sys2Proof.Machine
end

section
/-! SUPPORT. A frame's decode in single operations, one to a step, reaches what the one step of `FR.CLOSE_EMIT` answers
(R59, R123; log entry 7). -/

namespace Sys2Proof.Safety

open Sys2Proof.Machine

/-! ## Runs put together -/

theorem run_succ_of_next {k : Nat} {s t e : State} {rs : List Record} (hs : step s = .next t)
    (hrun : run k t = some (rs, e)) : run (k + 1) s = some (t.out.toList ++ rs, e) := by
  simp only [run, hs, hrun, Option.map_some]

theorem run_append {j k : Nat} {s t e : State} {rs rs' : List Record} (hfirst : run j s = some (rs, t))
    (hsecond : run k t = some (rs', e)) : run (j + k) s = some (rs ++ rs', e) := by
  induction j generalizing s rs with
  | zero =>
    cases hfirst
    rwa [Nat.zero_add]
  | succ j ih =>
    obtain ⟨u, rs₁, hs, hrun⟩ := run_succ_eq_some hfirst
    cases (run_succ_of_next hs hrun).symm.trans hfirst
    rw [Nat.succ_add, List.append_assoc]
    exact run_succ_of_next hs (ih hrun)

/-- `t` is reached from `s` in at most `n` steps. -/
def ReachesWithin (n : Nat) (s t : State) : Prop := ∃ k, k ≤ n ∧ iterate k s = some t

theorem iterate_eq_some_iff {k : Nat} {s t : State} : iterate k s = some t ↔ ∃ rs, run k s = some (rs, t) := by
  simp [iterate]

theorem ReachesWithin.refl (n : Nat) (s : State) : ReachesWithin n s s := ⟨0, n.zero_le, rfl⟩

theorem ReachesWithin.trans {m n : Nat} {s t u : State} (hst : ReachesWithin m s t) (htu : ReachesWithin n t u) :
    ReachesWithin (m + n) s u := by
  obtain ⟨j, hj, hfirst⟩ := hst
  obtain ⟨k, hk, hsecond⟩ := htu
  obtain ⟨rs, hfirst⟩ := iterate_eq_some_iff.1 hfirst
  obtain ⟨rs', hsecond⟩ := iterate_eq_some_iff.1 hsecond
  exact ⟨j + k, Nat.add_le_add hj hk, iterate_eq_some_iff.2 ⟨_, run_append hfirst hsecond⟩⟩

theorem ReachesWithin.of_step {s t : State} (h : step s = .next t) : ReachesWithin 1 s t :=
  ⟨1, le_rfl, iterate_eq_some_iff.2 ⟨_, run_succ_of_next h rfl⟩⟩

/-! ## The operations of a decode as steps -/

/-- `exec` of an operation that no stream context selects is the operation as a close runs it. -/
theorem exec_eq_execPart {i : Instr} {c : Context} (hadmits : i.admits c = true)
    (hc : ∀ st lenOk, c.isStream st lenOk = false) (s : State) : exec i s = execPart i s := by
  cases i with
  | frOpen | frCloseDiscard | frCloseEmit | frAppend | frIgnore => simp [Instr.admits, hc] at hadmits
  | _ => rfl

section
variable {s : State}

theorem step_scan {x : Byte} (hp : s.work.phase = .scan) (hx : readByte s.buf s.work.pos = some x) :
    step s = execPart (decodeRaw s.work.ep x) s := by
  rw [step_inside_decode (by simp [hp]) (fetch_scan hp hx)]
  exact exec_eq_execPart (decodeRaw_fitsRow _ x).admits (fun _ _ => rfl) s

theorem step_dir (hp : s.work.phase = .dir) : step s = decodeDirectionPart s := by
  rw [step_inside_decode (by simp [hp]) (fetch_dir hp), decodeDirectionPart_of_dir hp]
  exact exec_eq_execPart (decodeDirection_fitsRow _).admits (fun _ _ => rfl) s

theorem step_cmd (hp : s.work.phase = .cmd) : step s = decodeCommandPart s := by
  rw [step_inside_decode (by simp [hp]) (fetch_cmd hp), decodeCommandPart_of_cmd hp]
  exact exec_eq_execPart (decodeCommand_fitsRow _).admits (fun _ _ => rfl) s

end

/-- The scan of the bytes from `i` to the end of `BUF` is one step for each. -/
theorem reachesWithin_scanBytes (rest : List Byte) : ∀ {s t : State}, s.work.phase = .scan →
    s.buf.drop s.work.pos = rest → scanBytes rest s = .next t → ReachesWithin rest.length s t := by
  induction rest with
  | nil =>
    intro s t _ _ hscan
    cases hscan
    exact .refl _ s
  | cons x rest ih =>
    intro s t hp hdrop hscan
    have hx : readByte s.buf s.work.pos = some x := by
      rw [readByte, ← List.head?_drop, hdrop, List.head?_cons]
    obtain ⟨bytes, ep, hexec, -⟩ := execPart_decodeRaw x s
    rw [scanBytes, hexec, next_andThen] at hscan
    have hdrop' : s.buf.drop (s.work.pos + 1) = rest := by rw [← List.drop_drop, hdrop]; rfl
    rw [List.length_cons, Nat.add_comm]
    exact (ReachesWithin.of_step ((step_scan hp hx).trans hexec)).trans (ih hp hdrop' hscan)

/-! ## The phases of a decode, in their order -/

theorem endScan_phase (s : State) : (endScan s).work.phase = .dir ∨ (endScan s).work.phase = .done := by
  unfold endScan
  split
  · exact .inr rfl
  · exact .inl rfl

theorem phase_of_decodeDirectionPart {s t : State} (hp : s.work.phase = .dir ∨ s.work.phase = .done)
    (h : decodeDirectionPart s = .next t) : t.work.phase = .cmd ∨ t.work.phase = .done := by
  rcases hp with hp | hp
  · rw [decodeDirectionPart_of_dir hp] at h
    cases hdir : directionFields s.params s.work.dir s.work.cmd s.work.fld with
    | none =>
      cases (execPart_decodeDirection_of_none hdir).symm.trans h
      exact .inr rfl
    | some fields =>
      cases (execPart_decodeDirection_of_some hdir).symm.trans h
      exact .inl rfl
  · cases (decodeDirectionPart_of_ne (by simp [hp])).symm.trans h
    exact .inr hp

theorem phase_of_decodeCommandPart {s t : State} (hp : s.work.phase = .cmd ∨ s.work.phase = .done)
    (h : decodeCommandPart s = .next t) : t.work.phase = .done := by
  rcases hp with hp | hp
  · cases ((decodeCommandPart_of_cmd hp).trans (execPart_decodeCommand _ s)).symm.trans h
    rfl
  · cases (decodeCommandPart_of_ne (by simp [hp])).symm.trans h
    exact hp

theorem reachesWithin_decodeDirectionPart {s t : State} (h : decodeDirectionPart s = .next t) : ReachesWithin 1 s t := by
  by_cases hp : s.work.phase = .dir
  · exact .of_step ((step_dir hp).trans h)
  · cases (decodeDirectionPart_of_ne hp).symm.trans h
    exact .refl 1 s

theorem reachesWithin_decodeCommandPart {s t : State} (h : decodeCommandPart s = .next t) : ReachesWithin 1 s t := by
  by_cases hp : s.work.phase = .cmd
  · exact .of_step ((step_cmd hp).trans h)
  · cases (decodeCommandPart_of_ne hp).symm.trans h
    exact .refl 1 s

/-- Where the scan has read all of `BUF`, the next step ends it. -/
theorem reachesWithin_endScan {tsE : Timestamp} {s t : State} (h : scanBytes s.buf (startScan tsE s) = .next t) :
    ReachesWithin 1 t (endScan t) := by
  obtain ⟨ep, hscan⟩ := scanBytes_eq s.buf (startScan tsE s)
  cases hscan.symm.trans h
  refine .of_step (step_of_scanEnd (fetch_scanEnd rfl ((readByte_eq_none_iff _ _).2 ?_)))
  simp [Work.rest]

/-- Settles O35: the stages of the close one after the other: the scan, its end, the direction, the command, the record. -/
theorem closeIsItsSingleOperations : Obligations.CloseIsItsSingleOperations := by
  intro tsE s
  obtain ⟨scanned, hscan, -⟩ := scanBytes_next s.buf (startScan tsE s)
  obtain ⟨directed, decoded, hdir, hcmd, -⟩ := decodeParts_eq scanned
  have hdone : decoded.work.phase = .done :=
    phase_of_decodeCommandPart (phase_of_decodeDirectionPart (endScan_phase scanned) hdir) hcmd
  have hreach : ReachesWithin (s.buf.length + 1 + 1 + 1 + 1) (startScan tsE s) (finishFrame decoded) :=
    ((((reachesWithin_scanBytes s.buf rfl rfl hscan).trans (reachesWithin_endScan hscan)).trans
      (reachesWithin_decodeDirectionPart hdir)).trans (reachesWithin_decodeCommandPart hcmd)).trans
      (.of_step (step_of_frameEnd (fetch_done hdone)))
  obtain ⟨k, hk, hiterate⟩ := hreach
  refine ⟨k, finishFrame decoded, hk, hiterate, ?_⟩
  simp only [exec, execFrCloseEmit, hscan, next_andThen, hdir, hcmd]

end Sys2Proof.Safety
end

section
/-! SUPPORT. Streams: what feeding a list of events to a block at rest gives, put together from its parts (R62, R121 to R130). -/

namespace Sys2Proof.Safety

open Sys2Proof.Machine
open Sys2Proof.Config (Params)

/-! ## Feeding events, whatever comes after them -/

/-- The events take `s`, apart from its input, to `t` with these records, whatever else is still to be fed. -/
def Feeding (s : State) (es : List HostEvent) (rs : List Record) (t : State) : Prop :=
  ∀ rest, run es.length { s with input := es ++ rest } = some (rs, { t with input := rest })

section
variable {s t u : State} {es es' : List HostEvent} {rs rs' : List Record}

theorem Feeding.nil (s : State) : Feeding s [] [] s := fun _ => rfl

theorem Feeding.append (hfirst : Feeding s es rs t) (hsecond : Feeding t es' rs' u) :
    Feeding s (es ++ es') (rs ++ rs') u := by
  intro rest
  rw [List.length_append, List.append_assoc]
  exact run_append (hfirst (es' ++ rest)) (hsecond rest)

theorem Feeding.of_step {e : HostEvent}
    (h : ∀ rest, step { s with input := e :: rest } = .next { t with input := rest }) :
    Feeding s [e] t.out.toList t := by
  intro rest
  simpa using run_succ_of_next (k := 0) (h rest) rfl

theorem Feeding.drain_eq (h : Feeding s es rs t) : drain { s with input := es } = some (rs, { t with input := [] }) := by
  simpa [drain] using h []

theorem Feeding.recordsOf_eq (h : Feeding s es rs t) : recordsOf s es = some rs := by
  rw [recordsOf, h.drain_eq, Option.map_some]

end

/-! ## The framer's operations on a stream -/

@[simp] theorem bytesOf_nil : bytesOf [] = [] := rfl

@[simp] theorem bytesOf_cons (x : Byte × Timestamp × Timestamp) (ts : List (Byte × Timestamp × Timestamp)) :
    bytesOf (x :: ts) = x.1 :: bytesOf ts := rfl

@[simp] theorem bytesOf_append (ts ts' : List (Byte × Timestamp × Timestamp)) :
    bytesOf (ts ++ ts') = bytesOf ts ++ bytesOf ts' := List.map_append

@[simp] theorem length_bytesOf (ts : List (Byte × Timestamp × Timestamp)) : (bytesOf ts).length = ts.length :=
  List.length_map _

section
variable {s : State}

theorem feeding_opens (hrest : AtRest s) (hst : s.st = .idle) (tsS tsE : Timestamp) :
    Feeding s [.feed Config.delim tsS tsE] [] { s with st := .inFrame, ts0 := tsS, buf := [], out := none } :=
  Feeding.of_step (t := { s with st := .inFrame, ts0 := tsS, buf := [], out := none }) fun _ => step_opens hrest hst rfl

theorem feeding_emits (hrest : AtRest s) (hst : s.st = .inFrame) (hlen : Config.minRaw ≤ s.buf.length)
    (tsS tsE : Timestamp) : Feeding s [.feed Config.delim tsS tsE] [closeRecord tsE s]
      { s with st := .idle, buf := [], out := some (closeRecord tsE s) } :=
  Feeding.of_step (t := { s with st := .idle, buf := [], out := some (closeRecord tsE s) }) fun _ =>
    step_emits hrest hst hlen rfl

theorem delim_notMem_bytesOf_cons {x : Byte × Timestamp × Timestamp} {ts : List (Byte × Timestamp × Timestamp)}
    (h : Config.delim ∉ bytesOf (x :: ts)) : x.1 ≠ Config.delim ∧ Config.delim ∉ bytesOf ts := by
  rw [bytesOf_cons, List.mem_cons, not_or] at h
  exact ⟨fun hx => h.1 hx.symm, h.2⟩

/-- Outside a frame, bytes that are no delimiter do nothing; the last record is gone after the first of them. -/
theorem feeding_ignores (hrest : AtRest s) (hst : s.st = .idle) {ts : List (Byte × Timestamp × Timestamp)}
    (hts : Config.delim ∉ bytesOf ts) : ∃ o, Feeding s (ts.map transaction) [] { s with out := o } := by
  induction ts generalizing s with
  | nil => exact ⟨s.out, .nil s⟩
  | cons x ts ih =>
    obtain ⟨hx, hts⟩ := delim_notMem_bytesOf_cons hts
    have hfirst : Feeding s [transaction x] [] { s with out := none } :=
      Feeding.of_step (t := { s with out := none }) fun _ => step_ignores hrest hst hx rfl
    obtain ⟨o, hothers⟩ := ih (s := { s with out := none }) hrest hst hts
    exact ⟨o, hfirst.append hothers⟩

/-- In a frame they all go to the end of the buffer. -/
theorem feeding_appends (hrest : AtRest s) (hcap : Unbounded s) (hst : s.st = .inFrame)
    {ts : List (Byte × Timestamp × Timestamp)} (hts : Config.delim ∉ bytesOf ts) :
    ∃ o, Feeding s (ts.map transaction) [] { s with buf := s.buf ++ bytesOf ts, out := o } := by
  induction ts generalizing s with
  | nil =>
    refine ⟨s.out, ?_⟩
    rw [bytesOf_nil, List.append_nil]
    exact .nil s
  | cons x ts ih =>
    obtain ⟨hx, hts⟩ := delim_notMem_bytesOf_cons hts
    have hfirst : Feeding s [transaction x] [] { s with buf := s.buf ++ [x.1], out := none } :=
      Feeding.of_step (t := { s with buf := s.buf ++ [x.1], out := none }) fun _ =>
        step_appends hrest hst hx (hasRoom_of_unbounded hcap) rfl
    obtain ⟨o, hothers⟩ := ih (s := { s with buf := s.buf ++ [x.1], out := none }) hrest hcap hst hts
    refine ⟨o, ?_⟩
    rw [bytesOf_cons, List.append_cons]
    exact hfirst.append hothers

/-- A stream with no delimiter emits nothing (R127). -/
theorem feeding_noDelim (hrest : AtRest s) (hcap : Unbounded s) {ts : List (Byte × Timestamp × Timestamp)}
    (hts : Config.delim ∉ bytesOf ts) : ∃ t, Feeding s (ts.map transaction) [] t := by
  cases hst : s.st with
  | idle =>
    obtain ⟨o, h⟩ := feeding_ignores hrest hst hts
    exact ⟨_, h⟩
  | inFrame =>
    obtain ⟨o, h⟩ := feeding_appends hrest hcap hst hts
    exact ⟨_, h⟩

/-- A frame of 8 or more raw bytes between two delimiters of its own gives one record (R121, R123, R124). -/
theorem feeding_frame (hrest : AtRest s) (hcap : Unbounded s) (hst : s.st = .idle)
    {ts : List (Byte × Timestamp × Timestamp)} (hts : Config.delim ∉ bytesOf ts) (hlen : Config.minRaw ≤ ts.length)
    (tsS tsE tsS' tsE' : Timestamp) :
    ∃ o, Feeding s ([.feed Config.delim tsS tsE] ++ ts.map transaction ++ [.feed Config.delim tsS' tsE'])
      [{ tStart := tsS, tEnd := tsE', body := decodePacket s.params (unescape (bytesOf ts)) }]
      { s with st := .idle, buf := [], ts0 := tsS, out := o } := by
  obtain ⟨o, hbytes⟩ := feeding_appends
    (s := { s with st := .inFrame, ts0 := tsS, buf := [], out := none }) hrest hcap rfl hts
  have hclose := feeding_emits (s := { s with st := .inFrame, ts0 := tsS, buf := bytesOf ts, out := o }) hrest rfl
    (by simpa using hlen) tsS' tsE'
  exact ⟨_, ((feeding_opens hrest hst tsS tsE).append hbytes).append hclose⟩

end

/-! ## What a stream gives -/

/-- Settles O8: what comes before the first delimiter is ignored, so the delimiter finds the block in `Idle`. -/
theorem openingDelimiterOpensAFrame : Obligations.OpeningDelimiterOpensAFrame := by
  refine ⟨fun _ _ => rfl, fun len tsS tsE => decodeStream_idle_delim len tsS tsE,
    fun s tsS tsE rest hrest hst hi => step_opens hrest hst hi, fun p before tsS tsE hbefore => ?_⟩
  obtain ⟨o, hignored⟩ := feeding_ignores (s := State.resetWith p) rfl rfl hbefore
  have hopen := feeding_opens (s := { State.resetWith p with out := o }) rfl rfl tsS tsE
  exact (hignored.append hopen).drain_eq

theorem isSome_out_iff_of_restStep {s t : State} (h : RestStep s t) : t.out.isSome = true ↔
    ∃ tsS tsE rest, s.input = .feed Config.delim tsS tsE :: rest ∧ s.st = .inFrame ∧ Config.minRaw ≤ s.buf.length := by
  cases h with
  | waits hi => simp [hi]
  | resets _ hi => simp [hi]
  | opens _ _ _ hi hst => simp [hst]
  | ignores _ _ _ _ hi hb hst => simp [hst]
  | discards _ _ _ hi hst hlen => simp [Nat.not_le.2 hlen]
  | emits tsS tsE rest hi hst hlen => simpa using ⟨⟨tsS, tsE, rest, hi⟩, hst, hlen⟩
  | appends _ _ _ _ hi hb => simpa [hi] using fun hdelim => absurd hdelim hb

/-- A stream with one delimiter is one delimiter between two streams with none. -/
theorem exists_split_of_count_eq_one {ts : List (Byte × Timestamp × Timestamp)}
    (h : (bytesOf ts).count Config.delim = 1) : ∃ before tsS tsE after,
      ts = before ++ (Config.delim, tsS, tsE) :: after ∧ Config.delim ∉ bytesOf before ∧ Config.delim ∉ bytesOf after := by
  have hmem : Config.delim ∈ bytesOf ts := List.count_pos_iff.1 (by omega)
  obtain ⟨⟨b, tsS, tsE⟩, hx, rfl⟩ := List.mem_map.1 hmem
  obtain ⟨before, after, rfl⟩ := List.append_of_mem hx
  rw [bytesOf_append, bytesOf_cons, List.count_append, List.count_cons_self] at h
  exact ⟨before, tsS, tsE, after, rfl, List.count_eq_zero.1 (by omega), List.count_eq_zero.1 (by omega)⟩

/-- Settles O17: one case for each way a step at rest goes on; and a delimiter that comes alone opens. -/
theorem whenRecordsAppear : Obligations.WhenRecordsAppear := by
  refine ⟨fun s t hrest hs => isSome_out_iff_of_restStep (restStep_of_step hrest hs), fun s ts hrest hcap hts => ?noDelim,
    fun p ts hcap hcount => ?oneDelim⟩
  case noDelim =>
    obtain ⟨t, h⟩ := feeding_noDelim hrest hcap hts
    exact h.recordsOf_eq
  case oneDelim =>
    obtain ⟨before, tsS, tsE, after, rfl, hbefore, hafter⟩ := exists_split_of_count_eq_one hcount
    obtain ⟨o, hignored⟩ := feeding_ignores (s := State.resetWith p) rfl rfl hbefore
    have hopen := feeding_opens (s := { State.resetWith p with out := o }) rfl rfl tsS tsE
    obtain ⟨t, hothers⟩ := feeding_noDelim
      (s := { State.resetWith p with st := .inFrame, ts0 := tsS, buf := [], out := none }) rfl hcap hafter
    rw [List.map_append, List.map_cons, List.append_cons]
    exact ((hignored.append hopen).append hothers).recordsOf_eq

/-- Settles O18: the delimiter that closes the first frame does not open a second (R126). -/
theorem sharedDelimiterLosesTheSecondFrame : Obligations.SharedDelimiterLosesTheSecondFrame := by
  intro s a b s1 e1 s2 e2 s3 e3 s4 e4 hrest hcap hst ha hb hlenA hlenB
  obtain ⟨o, hfirst⟩ := feeding_frame hrest hcap hst ha hlenA s1 e1 s2 e2
  constructor
  · obtain ⟨o', hignored⟩ := feeding_ignores (s := { s with st := .idle, buf := [], ts0 := s1, out := o }) hrest rfl hb
    have hopen := feeding_opens (s := { s with st := .idle, buf := [], ts0 := s1, out := o' }) hrest rfl s3 e3
    exact ((hfirst.append hignored).append hopen).drain_eq
  · obtain ⟨o', hsecond⟩ := feeding_frame (s := { s with st := .idle, buf := [], ts0 := s1, out := o }) hrest hcap rfl hb hlenB
      s3 e3 s4 e4
    simpa using (hfirst.append hsecond).recordsOf_eq

theorem renameEvent_id (e : HostEvent) : renameEvent id e = e := by cases e <;> rfl

theorem renameRecord_id : renameRecord id = id := rfl

/-- Settles O24: `Idle` with an empty buffer differs from reset in `TS0` only, which no later record shows. -/
theorem framesAreIndependent : Obligations.FramesAreIndependent := by
  refine ⟨fun i s t hclose hs => ?closes, fun s es hrest hst hbuf => ?records⟩
  case closes =>
    rcases hclose with rfl | ⟨tsE, rfl⟩
    · cases hs
      exact ⟨rfl, rfl⟩
    · cases (execFrCloseEmit_eq tsE s).symm.trans hs
      exact ⟨rfl, rfl⟩
  case records =>
    have start : SameButTimes id { State.resetWith s.params with input := es } { s with input := es } :=
      ⟨rfl, hrest, rfl, hst, hbuf, nofun, by simp [funext renameEvent_id]⟩
    simpa [recordsOf, drain, renameRecord_id, Function.comp_def] using start.run_records es.length

end Sys2Proof.Safety
end

section
/-! SUPPORT. The escape decoder (41_unescape.md): the turns of the reference's loop, its lengths, the sender's side that it
undoes, and the five operations that are its turns (R140 to R149). -/

namespace Sys2Proof.Machine

/-! ## One turn of the loop of `unescape`, row by row -/

section
variable {x : Byte} (rest : List Byte)

@[simp] theorem unescapeFrom_nil (ep : Bool) : unescapeFrom ep [] = [] := by cases ep <;> rfl

theorem unescapeFrom_true_escEnd :
    unescapeFrom true (Config.escEnd :: rest) = Config.delim :: unescapeFrom false rest := rfl

theorem unescapeFrom_true_escEsc :
    unescapeFrom true (Config.escEsc :: rest) = Config.esc :: unescapeFrom false rest := rfl

theorem unescapeFrom_true_of_ne (hend : x ≠ Config.escEnd) (hesc : x ≠ Config.escEsc) :
    unescapeFrom true (x :: rest) = unescapeFrom false rest := (if_neg hend).trans (if_neg hesc)

theorem unescapeFrom_false_esc : unescapeFrom false (Config.esc :: rest) = unescapeFrom true rest := rfl

theorem unescapeFrom_false_of_ne (h : x ≠ Config.esc) :
    unescapeFrom false (x :: rest) = x :: unescapeFrom false rest := if_neg h

theorem marksAndDropsFrom_true_of_ne (hend : x ≠ Config.escEnd) (hesc : x ≠ Config.escEsc) :
    marksAndDropsFrom true (x :: rest) = ((marksAndDropsFrom false rest).1, (marksAndDropsFrom false rest).2 + 1) :=
  if_neg (not_or.2 ⟨hend, hesc⟩)

theorem marksAndDropsFrom_false_of_ne (h : x ≠ Config.esc) :
    marksAndDropsFrom false (x :: rest) = marksAndDropsFrom false rest := if_neg h

end

/-! ## The sender's side, and that `unescape` undoes it -/

section
variable {x : Byte} (rest : List Byte)

theorem escape_cons_delim : escape (Config.delim :: rest) = Config.esc :: Config.escEnd :: escape rest := rfl

theorem escape_cons_esc : escape (Config.esc :: rest) = Config.esc :: Config.escEsc :: escape rest := rfl

theorem escape_cons_of_ne (hdelim : x ≠ Config.delim) (hesc : x ≠ Config.esc) :
    escape (x :: rest) = x :: escape rest := (if_neg hdelim).trans (if_neg hesc)

end

/-- The escaped bytes leave no escape pending, so what follows them is unescaped as if it came first. -/
theorem unescape_escape_append (y z : List Byte) : unescape (escape y ++ z) = y ++ unescape z := by
  unfold unescape
  induction y with
  | nil => rfl
  | cons x rest ih =>
    by_cases hdelim : x = Config.delim
    · subst hdelim
      rw [escape_cons_delim, List.cons_append, List.cons_append, unescapeFrom_false_esc, unescapeFrom_true_escEnd, ih,
        List.cons_append]
    · by_cases hesc : x = Config.esc
      · subst hesc
        rw [escape_cons_esc, List.cons_append, List.cons_append, unescapeFrom_false_esc, unescapeFrom_true_escEsc, ih,
          List.cons_append]
      · rw [escape_cons_of_ne rest hdelim hesc, List.cons_append, unescapeFrom_false_of_ne _ hesc, ih, List.cons_append]

theorem unescape_escape (x : List Byte) : unescape (escape x) = x := by
  simpa [unescape] using unescape_escape_append x []

theorem delim_notMem_escape (x : List Byte) : Config.delim ∉ escape x := by
  induction x with
  | nil => exact List.not_mem_nil
  | cons x rest ih =>
    by_cases hdelim : x = Config.delim
    · subst hdelim
      exact List.not_mem_cons_of_ne_of_not_mem (by decide) (List.not_mem_cons_of_ne_of_not_mem (by decide) ih)
    · by_cases hesc : x = Config.esc
      · subst hesc
        exact List.not_mem_cons_of_ne_of_not_mem (by decide) (List.not_mem_cons_of_ne_of_not_mem (by decide) ih)
      · rw [escape_cons_of_ne rest hdelim hesc]
        exact List.not_mem_cons_of_ne_of_not_mem (Ne.symm hdelim) ih

/-! ## Lengths (R147) -/

/-- Each turn of the loop emits its byte, or marks, or drops: `UE.END`, `UE.ESC` and `UE.LIT` emit one byte, the other two
none. -/
theorem length_unescapeFrom_add (ep : Bool) (b : List Byte) :
    (unescapeFrom ep b).length + (marksAndDropsFrom ep b).1 + (marksAndDropsFrom ep b).2 = b.length := by
  induction ep, b using unescapeFrom.induct with
  | case1 ep => cases ep <;> rfl
  | case2 rest ih => simp [unescapeFrom, marksAndDropsFrom]; omega
  | case3 rest _ ih => simp [unescapeFrom, marksAndDropsFrom]; omega
  | case4 x rest hend hesc ih =>
    rw [unescapeFrom_true_of_ne rest hend hesc, marksAndDropsFrom_true_of_ne rest hend hesc, List.length_cons]
    omega
  | case5 rest ih => simp [unescapeFrom, marksAndDropsFrom]; omega
  | case6 x rest hmark ih =>
    rw [unescapeFrom_false_of_ne rest hmark, marksAndDropsFrom_false_of_ne rest hmark, List.length_cons, List.length_cons]
    omega

theorem marks_eq_zero_iff (b : List Byte) : (marksAndDropsFrom false b).1 = 0 ↔ Config.esc ∉ b := by
  induction b with
  | nil => simp [marksAndDropsFrom]
  | cons x rest ih =>
    by_cases hmark : x = Config.esc
    · subst hmark
      simp [marksAndDropsFrom]
    · rw [marksAndDropsFrom_false_of_ne rest hmark, ih, List.mem_cons, not_or]
      exact (and_iff_right (Ne.symm hmark)).symm

theorem unescape_eq_self {b : List Byte} (h : Config.esc ∉ b) : unescape b = b := by
  unfold unescape
  induction b with
  | nil => rfl
  | cons x rest ih =>
    obtain ⟨hx, hrest⟩ := not_or.1 (mt List.mem_cons.2 h)
    rw [unescapeFrom_false_of_ne rest (Ne.symm hx), ih hrest]

/-- Settles O36: the law of lengths bounds the output, and it is the input where there is no marker. -/
theorem unescapeLength : Obligations.UnescapeLength := by
  refine ⟨fun b => ?_, by decide, by decide, by decide, by decide⟩
  have hsum : (unescape b).length + _ + _ = b.length := length_unescapeFrom_add false b
  refine ⟨hsum, by omega, ⟨fun _ => by omega, fun hmarks => ?_⟩, marks_eq_zero_iff b, unescape_eq_self⟩
  rw [unescape_eq_self ((marks_eq_zero_iff b).1 hmarks)]

/-- Settles O37: the `0xDB` that an escape yields begins an escape the second time. -/
theorem unescapeIsNotIdempotent : Obligations.UnescapeIsNotIdempotent :=
  ⟨rfl, rfl, fun h => absurd (h [0xDB, 0xDD, 0xDC]) (by decide)⟩

/-! ## The operations one by one -/

theorem scanOne_nil (ep : Bool) (s : State) :
    scanOne [] ep s = { s with work := { s.work with ep := ep, pos := s.work.pos + 1 } } := by
  simp only [scanOne, List.append_nil]

/-- Settles O28: the rule of the operation, its row, and the turns of a marker and of `0xDC`. -/
theorem escapedDelimiterIsUnescaped : Obligations.EscapedDelimiterIsUnescaped :=
  ⟨fun _ => rfl, decodeRaw_true_escEnd, unescapeFrom_true_escEnd []⟩

/-- Settles O29: after the escape the scan goes on with `ep = 0`, so the `0xDC` that follows is a byte as any other. -/
theorem escapedMarkerIsUnescaped : Obligations.EscapedMarkerIsUnescaped :=
  ⟨fun _ => rfl, decodeRaw_true_escEsc, unescapeFrom_true_escEsc [Config.escEnd]⟩

/-- Settles O31: the catch-all row of `ep = 1`, whose turn emits nothing and leaves `ep = 0`. -/
theorem invalidEscapeIsDropped : Obligations.InvalidEscapeIsDropped :=
  ⟨fun _ s => congrArg _ (scanOne_nil false s),
    fun _ hend hesc => ⟨decodeRaw_true_of_ne hend hesc, unescapeFrom_true_of_ne [] hend hesc⟩,
    unescapeFrom_true_of_ne (x := Config.esc) [Config.escEnd] (by decide) (by decide),
    unescapeFrom_true_of_ne (x := 0x00) [Config.escEnd] (by decide) (by decide)⟩

/-- Settles O32: the operation emits no byte. -/
theorem escapeMarkerSetsEscapePending : Obligations.EscapeMarkerSetsEscapePending :=
  ⟨fun s => congrArg _ (scanOne_nil true s), decodeRaw_false_esc⟩

/-- Settles O33: the catch-all row of `ep = 0`, whose turn emits the byte. -/
theorem ordinaryByteIsEmitted : Obligations.OrdinaryByteIsEmitted :=
  ⟨fun _ _ => rfl, fun _ hmark => ⟨decodeRaw_false_of_ne hmark, unescapeFrom_false_of_ne [] hmark⟩⟩

/-- Settles O30: what the byte selects fits its row, so it is one of the five operations, and the byte that `UE.LIT` appends is
no marker. -/
theorem onlyEscapesYieldTheReservedValues : Obligations.OnlyEscapesYieldTheReservedValues := by
  intro ep x s t _ h
  obtain ⟨hwf, hadmits, hbyte⟩ := decode_fitsRow (.rb ep) x
  generalize decode (.rb ep) x = i at h hwf hadmits hbyte ⊢
  cases i with
  | ueEnd | ueEsc | ueDrop | ueMark =>
    cases h
    simp
  | ueLit y =>
    obtain rfl : y = x := hbyte
    have hmark : y ≠ 0xDB := bne_iff_ne.1 hwf
    cases h
    simpa using hmark
  | _ => cases hadmits

end Sys2Proof.Machine
end

section
/-! SUPPORT. The scan in single steps, and a sender's frame fed to the block (R140, R149). -/

namespace Sys2Proof.Safety

open Sys2Proof.Machine

/-! ## The scan -/

theorem iterate_succ_of_step {k : Nat} {s t e : State} (hs : step s = .next t) (ht : iterate k t = some e) :
    iterate (k + 1) s = some e := by
  obtain ⟨rs, hrun⟩ := iterate_eq_some_iff.1 ht
  exact iterate_eq_some_iff.2 ⟨_, run_succ_of_next hs hrun⟩

/-- `reachesWithin_scanBytes` with the number of steps: one for each byte, no fewer. -/
theorem iterate_scanBytes (rest : List Byte) : ∀ {s t : State}, s.work.phase = .scan →
    s.buf.drop s.work.pos = rest → scanBytes rest s = .next t → iterate rest.length s = some t := by
  induction rest with
  | nil =>
    intro s t _ _ hscan
    cases hscan
    rfl
  | cons x rest ih =>
    intro s t hp hdrop hscan
    have hx : readByte s.buf s.work.pos = some x := by
      rw [readByte, ← List.head?_drop, hdrop, List.head?_cons]
    obtain ⟨bytes, ep, hexec, -⟩ := execPart_decodeRaw x s
    rw [scanBytes, hexec, next_andThen] at hscan
    have hdrop' : s.buf.drop (s.work.pos + 1) = rest := by rw [← List.drop_drop, hdrop]; rfl
    exact iterate_succ_of_step ((step_scan hp hx).trans hexec) (ih hp hdrop' hscan)

/-- Settles O34: the single steps are the scan that a close runs on the bytes from `i` on. -/
theorem scanComputesUnescape : Obligations.ScanComputesUnescape := by
  intro s hp hpos
  obtain ⟨ep, hscan⟩ := scanBytes_eq (s.buf.drop s.work.pos) s
  have hiterate := iterate_scanBytes _ hp rfl hscan
  rw [List.length_drop, Nat.add_sub_cancel' hpos] at hiterate
  exact ⟨ep, hiterate⟩

/-! ## The round trip -/

section
variable {s : State}

theorem feeding_discards (hrest : AtRest s) (hst : s.st = .inFrame) (hlen : s.buf.length < Config.minRaw)
    (tsS tsE : Timestamp) :
    Feeding s [.feed Config.delim tsS tsE] [] { s with st := .idle, buf := [], out := none } :=
  Feeding.of_step (t := { s with st := .idle, buf := [], out := none }) fun _ => step_discards hrest hst hlen rfl

/-- `feeding_frame` for a frame below 8 raw bytes: it gives no record (R122). -/
theorem feeding_shortFrame (hrest : AtRest s) (hcap : Unbounded s) (hst : s.st = .idle)
    {ts : List (Byte × Timestamp × Timestamp)} (hts : Config.delim ∉ bytesOf ts) (hlen : ts.length < Config.minRaw)
    (tsS tsE tsS' tsE' : Timestamp) :
    Feeding s ([.feed Config.delim tsS tsE] ++ ts.map transaction ++ [.feed Config.delim tsS' tsE']) []
      { s with st := .idle, buf := [], ts0 := tsS, out := none } := by
  obtain ⟨o, hbytes⟩ := feeding_appends
    (s := { s with st := .inFrame, ts0 := tsS, buf := [], out := none }) hrest hcap rfl hts
  have hclose := feeding_discards (s := { s with st := .inFrame, ts0 := tsS, buf := bytesOf ts, out := o }) hrest rfl
    (by simpa using hlen) tsS' tsE'
  exact ((feeding_opens hrest hst tsS tsE).append hbytes).append hclose

end

theorem eq_escape_of_frameBytes_eq {x bytes : List Byte} (h : frameBytes x = [Config.delim] ++ bytes ++ [Config.delim]) :
    bytes = escape x := by
  simpa [frameBytes, eq_comm] using h

/-- Settles O38: between the delimiters the block gets `esc(x)`, which holds none, and decodes `unescape(esc(x))`, which is
`x`. -/
theorem frameRoundTrip : Obligations.FrameRoundTrip := by
  refine ⟨fun x => ⟨unescape_escape x, delim_notMem_escape x⟩, fun s x ts s1 e1 s2 e2 hrest hcap hst hframe => ?_⟩
  have hbytes : bytesOf ts = escape x := eq_escape_of_frameBytes_eq hframe
  have hdelim : Config.delim ∉ bytesOf ts := hbytes ▸ delim_notMem_escape x
  rw [← hbytes, length_bytesOf]
  by_cases hlen : 8 ≤ ts.length
  · obtain ⟨o, hfeed⟩ := feeding_frame hrest hcap hst hdelim hlen s1 e1 s2 e2
    rw [hbytes, unescape_escape] at hfeed
    rw [if_pos hlen]
    exact hfeed.recordsOf_eq
  · rw [if_neg hlen]
    exact (feeding_shortFrame hrest hcap hst hdelim (Nat.lt_of_not_le hlen) s1 e1 s2 e2).recordsOf_eq

end Sys2Proof.Safety
end

section
/-! SUPPORT. The packet validator (42_packet_validator.md): the header fields as reads, the three outcomes of `decode` by the
header and the direction byte, and the direction operations. -/

namespace Sys2Proof.Machine

open Sys2Proof.Config (Params)

/-! ## The header (R162) -/

/-- Two bytes fit `size` (R86), so the read of width 2 is kept whole. -/
theorem toNat_size (s0 s1 : Byte) : (BitVec.ofNat 16 (s0.toNat + 256 * s1.toNat)).toNat = s0.toNat + 256 * s1.toNat := by
  have h0 := s0.isLt
  have h1 := s1.isLt
  rw [BitVec.toNat_ofNat, Nat.mod_eq_of_lt (by omega)]

/-- A parsed header is the frame's first eight bytes, and its payload the rest. -/
theorem eq_cons_of_parseHeader {u : Memory} {h : Header} (hp : parseHeader u = some h) :
    ∃ s0 s1, h.size = BitVec.ofNat 16 (s0.toNat + 256 * s1.toNat) ∧
      u = h.dir :: h.cmd :: s0 :: s1 :: h.fld.b0 :: h.fld.b1 :: h.fld.b2 :: h.fld.b3 :: h.payload := by
  rcases header_or_short u with hshort | ⟨d, c, s0, s1, f0, f1, f2, f3, payload, rfl⟩
  · cases (parseHeader_short u hshort).symm.trans hp
  · cases (parseHeader_cons d c s0 s1 f0 f1 f2 f3 payload).symm.trans hp
    exact ⟨s0, s1, rfl, rfl⟩

theorem isSome_parseHeader_iff (u : Memory) : (parseHeader u).isSome = true ↔ 8 ≤ u.length := by
  rcases header_or_short u with hshort | ⟨d, c, s0, s1, f0, f1, f2, f3, payload, rfl⟩
  · simp [parseHeader_short u hshort, hshort]
  · simp [parseHeader_cons]

/-- Settles O42: a parsed header lists the frame's bytes, and each field's read is the rule for its width. -/
theorem headerFieldsAreTheReads : Obligations.HeaderFieldsAreTheReads := by
  refine ⟨isSome_parseHeader_iff, fun u h hp => ?_⟩
  obtain ⟨s0, s1, hsize, rfl⟩ := eq_cons_of_parseHeader hp
  refine ⟨memRead_one rfl, memRead_one rfl, ?size, ?fld32, rfl, rfl, rfl, rfl, rfl, rfl⟩
  case size =>
    rw [hsize, toNat_size]
    exact memRead_two rfl rfl
  case fld32 =>
    rw [quadWord_toNat]
    exact memRead_four rfl rfl rfl rfl

/-! ## The outcomes of `decode` (R160) -/

/-- The packet of a header whose direction gave these fields: the diagnostics are the model's own functions of the header
(R166, R168, R190); that `decode` gives it is `decodePacket_of_some`. -/
def headerPacket (p : Params) (h : Header) (isResp : Bool) (sel : FldSel) (shown : Quad) : Packet where
  isResp := isResp
  cmd := h.cmd
  cmdKnown := commandKnown p h.cmd
  size := h.size
  fld := h.fld
  fldSel := sel
  fldOut := shown
  payload := h.payload
  lenMismatch := lengthMismatch h.size h.payload.length
  ckChecked := (checksum p h.cmd (quadWord h.fld) h.payload).checked
  ckMismatch := (checksum p h.cmd (quadWord h.fld) h.payload).mismatch
  ckCalc := (checksum p h.cmd (quadWord h.fld) h.payload).computed

section
variable {p : Params} {u : List Byte} {h : Header}

theorem decodePacket_of_some {isResp : Bool} {sel : FldSel} {shown : Quad} (hp : parseHeader u = some h)
    (hdir : directionFields p h.dir h.cmd h.fld = some (isResp, sel, shown)) :
    decodePacket p u = .packet (headerPacket p h isResp sel shown) := by
  obtain ⟨s0, s1, hsize, rfl⟩ := eq_cons_of_parseHeader hp
  obtain ⟨d, c, size, fld, payload⟩ := h
  obtain rfl : size = _ := hsize
  exact (workBody_applyCommand (s := State.resetWith p) hdir).symm

theorem decodePacket_of_header_of_none (hp : parseHeader u = some h)
    (hdir : directionFields p h.dir h.cmd h.fld = none) : decodePacket p u = .badDirection := by
  obtain ⟨s0, s1, -, rfl⟩ := eq_cons_of_parseHeader hp
  exact decodePacket_of_none hdir

/-- What `decode` can give: the header, then the direction byte, decide which of the three it is. -/
theorem decodePacket_cases (p : Params) (u : List Byte) :
    (u.length < 8 ∧ decodePacket p u = .decodeFault) ∨
    ∃ h, parseHeader u = some h ∧
      ((directionFields p h.dir h.cmd h.fld = none ∧ decodePacket p u = .badDirection) ∨
      ∃ isResp sel shown, directionFields p h.dir h.cmd h.fld = some (isResp, sel, shown) ∧
        decodePacket p u = .packet (headerPacket p h isResp sel shown)) := by
  rcases Nat.lt_or_ge u.length 8 with hshort | hlen
  · exact .inl ⟨hshort, decodePacket_of_short hshort⟩
  · obtain ⟨h, hp⟩ := Option.isSome_iff_exists.1 ((isSome_parseHeader_iff u).2 hlen)
    refine .inr ⟨h, hp, ?_⟩
    cases hdir : directionFields p h.dir h.cmd h.fld with
    | none => exact .inl ⟨rfl, decodePacket_of_header_of_none hp hdir⟩
    | some fields => exact .inr ⟨_, _, _, rfl, decodePacket_of_some hp hdir⟩

/-- A packet comes from a header with a valid direction. -/
theorem exists_header_of_decodePacket {k : Packet} (hk : decodePacket p u = .packet k) :
    ∃ h isResp sel shown, parseHeader u = some h ∧
      directionFields p h.dir h.cmd h.fld = some (isResp, sel, shown) ∧ k = headerPacket p h isResp sel shown := by
  rcases decodePacket_cases p u with ⟨-, hfault⟩ | ⟨h, hp, ⟨-, hbad⟩ | ⟨isResp, sel, shown, hdir, hpacket⟩⟩
  · cases hfault.symm.trans hk
  · cases hbad.symm.trans hk
  · cases hpacket.symm.trans hk
    exact ⟨h, isResp, sel, shown, hp, hdir, rfl⟩

theorem decodePacket_eq_decodeFault_iff : decodePacket p u = .decodeFault ↔ u.length < 8 := by
  refine ⟨fun hfault => ?_, decodePacket_of_short⟩
  rcases decodePacket_cases p u with ⟨hshort, -⟩ | ⟨h, -, ⟨-, hbad⟩ | ⟨_, _, _, -, hpacket⟩⟩
  · exact hshort
  · cases hbad.symm.trans hfault
  · cases hpacket.symm.trans hfault

end

/-! ## A close with a known outcome (R123) -/

theorem exec_frCloseEmit_of_body {s : State} {body : Body} (tsE : Timestamp)
    (h : decodePacket s.params (unescape s.buf) = body) : exec (.frCloseEmit tsE) s = .next { s with
      st := .idle, buf := [], work := Work.rest, out := some { tStart := s.ts0, tEnd := tsE, body := body } } := by
  subst h
  exact execFrCloseEmit_eq tsE s

/-- Settles O43: without a complete header, and only then, `decode` looks at nothing else. -/
theorem shortUnescapedFrameIsADecodeFault : Obligations.ShortUnescapedFrameIsADecodeFault :=
  ⟨fun _ _ => decodePacket_eq_decodeFault_iff,
    fun tsE _ hshort => exec_frCloseEmit_of_body tsE (decodePacket_of_short hshort), rfl⟩

/-! ## The direction classes (R163 to R165) -/

theorem execDirResp_of_eq {s : State} (h : s.work.cmd = s.params.cmdReadReg) :
    execDirResp s = .next (setDirection true .value s.work.fld s) := if_pos (beq_iff_eq.2 h)

theorem execDirResp_of_ne {s : State} (h : s.work.cmd ≠ s.params.cmdReadReg) :
    execDirResp s = .next (setDirection true .placeholder Config.placeholder s) := if_neg (mt beq_iff_eq.1 h)

theorem directionFields_of_ne {p : Params} {d c : Byte} {q : Quad} (hreq : d ≠ Config.dirReq) (hresp : d ≠ Config.dirResp) :
    directionFields p d c q = none := (if_neg hreq).trans (if_neg hresp)

/-- Settles O44: the operation is one store of the direction's fields. -/
theorem requestShowsTheReceivedField : Obligations.RequestShowsTheReceivedField :=
  ⟨fun _ => rfl, decodeDirection_dirReq⟩

/-- Settles O45: the command decides what is shown, and the record's packet keeps the field that the header gave. -/
theorem responseShowsValueOrPlaceholder : Obligations.ResponseShowsValueOrPlaceholder := by
  refine ⟨fun _ => execDirResp_of_eq, fun _ => execDirResp_of_ne, decodeDirection_dirResp, ?_⟩
  intro p cmd s0 s1 f0 f1 f2 f3 payload k hk
  obtain ⟨h, isResp, sel, shown, hp, -, rfl⟩ := exists_header_of_decodePacket hk
  cases (parseHeader_cons 0x01 cmd s0 s1 f0 f1 f2 f3 payload).symm.trans hp
  exact ⟨rfl, rfl⟩

/-- Settles O46: an invalid direction has no fields, so the close emits the record without them. -/
theorem badDirectionStopsTheDecode : Obligations.BadDirectionStopsTheDecode := by
  refine ⟨fun _ _ => rfl, fun _ => decodeDirection_of_ne, ?_, fun _ => beq_iff_eq⟩
  intro tsE s d tail hu hlen hreq hresp
  obtain ⟨h, hp⟩ := Option.isSome_iff_exists.1 ((isSome_parseHeader_iff (d :: tail)).2 (Nat.succ_le_succ hlen))
  have hd : h.dir = d := by
    obtain ⟨s0, s1, -, hcons⟩ := eq_cons_of_parseHeader hp
    exact (List.cons.inj hcons).1.symm
  refine exec_frCloseEmit_of_body tsE ?_
  rw [hu]
  exact decodePacket_of_header_of_none hp (hd ▸ directionFields_of_ne hreq hresp)

/-! ## The length diagnostic and the lookup (R166, R168) -/

theorem lengthMismatch_iff (size : BitVec 16) (n : Nat) : lengthMismatch size n = true ↔ n ≠ size.toNat := bne_iff_ne

theorem lengthMismatch_of_lt (size : BitVec 16) {n : Nat} (h : 65535 < n) : lengthMismatch size n = true := by
  have hsize := size.isLt
  rw [lengthMismatch_iff]
  omega

theorem commandKnown_iff_exists_entry (p : Params) (c : Byte) :
    commandKnown p c = true ↔ ∃ name, (c, name) ∈ p.cmdTable := by
  simp [commandKnown_iff]

/-- Settles O47: every field of a packet is a function of its header, and the header's fields are the reads of O42. -/
theorem lengthPayloadAndLookup : Obligations.LengthPayloadAndLookup := by
  intro p u k hk
  obtain ⟨h, isResp, sel, shown, hp, -, rfl⟩ := exists_header_of_decodePacket hk
  obtain ⟨-, hfields⟩ := headerFieldsAreTheReads
  obtain ⟨-, hcmd, hsize, -, -, -, -, -, hpayload, hplen⟩ := hfields u h hp
  exact ⟨lengthMismatch_iff _ _, lengthMismatch_of_lt _, hpayload, hplen, hsize, hcmd,
    commandKnown_iff_exists_entry p h.cmd, rfl, rfl, rfl⟩

end Sys2Proof.Machine
end

section
/-! SUPPORT. The checksum and the commands (43_checksum_dispatch.md): the fold, the comparison with the received field, when it
is made, what a change of one byte does to it, and what each command operation writes. -/

namespace Sys2Proof.Machine

open Sys2Proof.Config (Params)

/-! ## The fold (R191) -/

section
variable {l m : List Byte} {x : Byte}

theorem checksumFold_append_singleton (l : List Byte) (x : Byte) : checksumFold (l ++ [x]) = checksumFold l ^^^ x :=
  List.foldl_concat ..

/-- The order does not count: two exclusive ors in either order give the same accumulator. -/
theorem checksumFold_perm (h : l.Perm m) : checksumFold l = checksumFold m :=
  have : RightCommutative fun acc x : Byte => acc ^^^ x :=
    ⟨fun acc x y => by rw [BitVec.xor_assoc, BitVec.xor_comm x, BitVec.xor_assoc]⟩
  h.foldl_eq Config.ckSeed

theorem checksumFold_cons (x : Byte) (l : List Byte) : checksumFold (x :: l) = checksumFold l ^^^ x :=
  (checksumFold_perm (List.perm_append_singleton x l).symm).trans (checksumFold_append_singleton l x)

theorem checksumFold_replicate_even_append (x : Byte) (n : Nat) (l : List Byte) :
    checksumFold (List.replicate (2 * n) x ++ l) = checksumFold l := by
  induction n with
  | zero => rfl
  | succ n ih =>
    rw [Nat.mul_succ, List.replicate_succ, List.replicate_succ, List.cons_append, List.cons_append, checksumFold_cons,
      checksumFold_cons, ih, BitVec.xor_assoc, BitVec.xor_self, BitVec.xor_zero]

/-- Moved to the front, the occurrences of `x` cancel in pairs. -/
theorem checksumFold_filter_ne (h : l.count x % 2 = 0) : checksumFold l = checksumFold (l.filter fun y => y != x) := by
  have hperm : (List.replicate (l.count x) x ++ l.filter fun y => y != x).Perm l := by
    rw [← List.filter_beq]
    exact List.filter_append_perm (· == x) l
  rw [← checksumFold_perm hperm, ← Nat.mul_div_cancel' (Nat.dvd_of_mod_eq_zero h), checksumFold_replicate_even_append]

/-- One byte in place of another gives another fold, unless it is the same byte. -/
theorem checksumFold_set_eq_iff {j : Nat} (hj : j < l.length) (b : Byte) :
    checksumFold (l.set j b) = checksumFold l ↔ l[j]? = some b := by
  rw [checksumFold_perm (List.set_perm_cons_eraseIdx hj b), ← checksumFold_perm (List.getElem_cons_eraseIdx_perm hj),
    checksumFold_cons, checksumFold_cons, BitVec.xor_right_inj, List.getElem?_eq_getElem hj, Option.some.injEq,
    eq_comm]

end

/-! ## The comparison (R192) -/

/-- Equality with all 32 bits needs the low byte equal and the three upper bytes zero. -/
theorem zeroExtend_eq_quadWord_iff (acc : Byte) (q : Quad) :
    acc.zeroExtend 32 = quadWord q ↔ q = ⟨acc, 0x00, 0x00, 0x00⟩ := by
  obtain ⟨b0, b1, b2, b3⟩ := q
  have h0 := b0.isLt
  have hacc := acc.isLt
  rw [← BitVec.toNat_inj, BitVec.toNat_setWidth_of_le (by decide), quadWord_toNat, Quad.mk.injEq]
  simp only [← BitVec.toNat_inj, BitVec.ofNat_eq_ofNat, BitVec.toNat_zero]
  omega

/-! ## When the checksum is verified (R190, R193) -/

section
variable {p : Params} {u : List Byte} {k : Packet}

theorem checksum_checked_iff (p : Params) (c : Byte) (f : BitVec 32) (m : Memory) :
    (checksum p c f m).checked = true ↔ c ∈ p.cksumSet ∧ 16 ≤ m.length := by
  by_cases hck : c ∈ p.cksumSet ∧ 16 ≤ m.length
  · obtain ⟨hset, hlen⟩ := hck
    simp [checksum_verified p c f m hset hlen, hset, hlen]
  · simp only [checksum_skipped p c f m ((not_and_or.1 hck).imp_right Nat.lt_of_not_le), hck, Bool.false_eq_true]

theorem ckChecked_iff (hk : decodePacket p u = .packet k) : k.ckChecked = true ↔ k.cmd ∈ p.cksumSet ∧ 16 ≤ k.plen := by
  obtain ⟨-, -, -, -, -, -, -, hchecked, -, -⟩ := lengthPayloadAndLookup p u k hk
  rw [hchecked, checksum_checked_iff, Packet.plen]

theorem ckChecked_of_notMem (hk : decodePacket p u = .packet k) (hset : k.cmd ∉ p.cksumSet) : k.ckChecked = false :=
  Bool.eq_false_iff.2 fun hck => hset ((ckChecked_iff hk).1 hck).1

/-- What a verified packet reports. -/
theorem ck_of_checked (hk : decodePacket p u = .packet k) (hck : k.ckChecked = true) :
    k.ckCalc = checksumFold (k.payload.drop 16) ∧ k.ckMismatch = (k.ckCalc.zeroExtend 32 != quadWord k.fld) := by
  obtain ⟨-, -, -, -, -, -, -, -, hmismatch, hcalc⟩ := lengthPayloadAndLookup p u k hk
  obtain ⟨hset, hlen⟩ := (ckChecked_iff hk).1 hck
  rw [hmismatch, hcalc, checksum_verified _ _ _ _ hset hlen]
  exact ⟨rfl, rfl⟩

theorem ck_of_not_checked (hk : decodePacket p u = .packet k) (hck : k.ckChecked = false) :
    k.ckMismatch = false ∧ k.ckCalc = 0x00 := by
  obtain ⟨-, -, -, -, -, -, -, -, hmismatch, hcalc⟩ := lengthPayloadAndLookup p u k hk
  have hskipped : k.cmd ∉ p.cksumSet ∨ k.plen < 16 :=
    (not_and_or.1 (mt (ckChecked_iff hk).2 (Bool.eq_false_iff.1 hck))).imp_right Nat.lt_of_not_le
  rw [hmismatch, hcalc, checksum_skipped _ _ _ _ hskipped]
  exact ⟨rfl, rfl⟩

/-- The covered bytes are those of the frame from offset 24. -/
theorem ckCalc_eq_checksumFold_drop (hk : decodePacket p u = .packet k) (hck : k.ckChecked = true) :
    k.ckCalc = checksumFold (u.drop 24) := by
  obtain ⟨-, -, hpayload, -⟩ := lengthPayloadAndLookup p u k hk
  rw [(ck_of_checked hk hck).1, hpayload, List.drop_drop]

theorem ckMismatch_eq_false_iff (hk : decodePacket p u = .packet k) (hck : k.ckChecked = true) :
    k.ckMismatch = false ↔ k.fld = ⟨k.ckCalc, 0x00, 0x00, 0x00⟩ := by
  rw [(ck_of_checked hk hck).2, bne_eq_false_iff_eq, zeroExtend_eq_quadWord_iff]

/-- The field of a packet is the frame's bytes from offset 4 (R86). -/
theorem fld_of_decodePacket (hk : decodePacket p u = .packet k) :
    memRead u 4 4 = some (quadWord k.fld).toNat ∧ readByte u 4 = some k.fld.b0 ∧ readByte u 5 = some k.fld.b1 ∧
    readByte u 6 = some k.fld.b2 ∧ readByte u 7 = some k.fld.b3 := by
  obtain ⟨h, _, _, _, hp, -, rfl⟩ := exists_header_of_decodePacket hk
  obtain ⟨-, hfields⟩ := headerFieldsAreTheReads
  obtain ⟨-, -, -, hfld32, hb0, hb1, hb2, hb3, -, -⟩ := hfields u h hp
  exact ⟨hfld32, hb0, hb1, hb2, hb3⟩

end

/-- Settles O48: the two conditions are those of `checksum`, and the field it compares with is the read at offset 4. -/
theorem checksumIsVerifiedOnTwoConditions : Obligations.ChecksumIsVerifiedOnTwoConditions := by
  intro p u k hk
  refine ⟨ckChecked_iff hk, fun hck => ?_, ck_of_not_checked hk⟩
  obtain ⟨hcalc, hmismatch⟩ := ck_of_checked hk hck
  obtain ⟨hread, -⟩ := fld_of_decodePacket hk
  have hacc : (k.ckCalc.zeroExtend 32).toNat = k.ckCalc.toNat := BitVec.toNat_setWidth_of_le (by decide)
  refine ⟨hcalc, ?_⟩
  rw [hmismatch, hread, bne_iff_ne, ne_eq, ne_eq, Option.some.injEq, ← BitVec.toNat_inj, hacc, eq_comm]

/-- Settles O49: the comparison is of four bytes, and they are the field's as received. -/
theorem checksumComparesAllFourBytes : Obligations.ChecksumComparesAllFourBytes := by
  refine ⟨fun p u k hk hck => ?_, fun p c fld payload hset hlen => ?_⟩
  · obtain ⟨-, hbytes⟩ := fld_of_decodePacket hk
    exact ⟨ckMismatch_eq_false_iff hk hck, hbytes⟩
  · rw [checksum_verified p c _ payload hset hlen, bne_iff_ne]

/-- Settles O50: the fold is a sum in a commutative group where every byte is its own inverse, and a packet's payload starts at
offset 8. -/
theorem checksumFoldIgnoresOrder : Obligations.ChecksumFoldIgnoresOrder :=
  ⟨rfl, checksumFold_append_singleton, fun _ _ => checksumFold_perm, fun _ _ => checksumFold_filter_ne,
    fun _ _ _ => ckCalc_eq_checksumFold_drop⟩

/-- Settles O51: the two frames have the same command, field and payload, and `checksum` reads nothing else. -/
theorem directionTakesNoPartInTheChecksum : Obligations.DirectionTakesNoPartInTheChecksum := by
  intro p tail k k' hk hk'
  obtain ⟨h, _, _, _, hp, -, rfl⟩ := exists_header_of_decodePacket hk
  obtain ⟨h', _, _, _, hp', -, rfl⟩ := exists_header_of_decodePacket hk'
  obtain ⟨s0, s1, -, hu⟩ := eq_cons_of_parseHeader hp
  obtain rfl : tail = _ := (List.cons.inj hu).2
  cases (parseHeader_cons ..).symm.trans hp'
  exact ⟨rfl, rfl, rfl⟩

/-! ## A change of one byte (R191, R197, R60) -/

theorem parseHeader_set {u : Memory} {h : Header} {i : Nat} (hp : parseHeader u = some h) (hi : 8 ≤ i) (b : Byte) :
    parseHeader (u.set i b) = some { h with payload := h.payload.set (i - 8) b } := by
  obtain ⟨s0, s1, hsize, rfl⟩ := eq_cons_of_parseHeader hp
  obtain ⟨j, rfl⟩ := Nat.exists_eq_add_of_le' hi
  simp only [List.set_cons_succ, parseHeader_cons, hsize, Nat.add_sub_cancel]

/-- Setting a byte of the payload leaves a packet with the same command, field and direction. -/
theorem decodePacket_set {p : Params} {u : List Byte} {k : Packet} {i : Nat} (hk : decodePacket p u = .packet k)
    (hi : 8 ≤ i) (b : Byte) : ∃ k', decodePacket p (u.set i b) = .packet k' ∧ k'.cmd = k.cmd ∧ k'.fld = k.fld ∧
      k'.payload = k.payload.set (i - 8) b := by
  obtain ⟨h, isResp, sel, shown, hp, hdir, rfl⟩ := exists_header_of_decodePacket hk
  exact ⟨_, decodePacket_of_some (parseHeader_set hp hi b) hdir, rfl, rfl, rfl⟩

/-- Settles O52: below offset 24 the covered bytes are the same; from there on one of them is another. -/
theorem exactlyTheBytesFromOffset16AreCovered : Obligations.ExactlyTheBytesFromOffset16AreCovered := by
  intro p u k i b hk hck hi hlen
  obtain ⟨k', hk', hcmd, hfld, hpayload⟩ := decodePacket_set hk hi b
  have hck' : k'.ckChecked = true := by
    rw [ckChecked_iff hk', hcmd, Packet.plen, hpayload, List.length_set]
    exact (ckChecked_iff hk).1 hck
  have hcalc : k.ckCalc = checksumFold (u.drop 24) := ckCalc_eq_checksumFold_drop hk hck
  have hcalc' : k'.ckCalc = checksumFold ((u.set i b).drop 24) := ckCalc_eq_checksumFold_drop hk' hck'
  refine ⟨k', hk', hck', fun hbelow => ?_, fun habove hb => ?_⟩
  · have hsame : k'.ckCalc = k.ckCalc := by rw [hcalc', hcalc, List.drop_set_of_lt hbelow]
    refine ⟨hsame, ?_⟩
    obtain ⟨-, hmismatch⟩ := ck_of_checked hk hck
    obtain ⟨-, hmismatch'⟩ := ck_of_checked hk' hck'
    rw [hmismatch', hmismatch, hsame, hfld]
  · have hother : k'.ckCalc ≠ k.ckCalc := by
      rw [hcalc', hcalc, List.drop_set, if_neg (Nat.not_lt.2 habove), ne_eq,
        checksumFold_set_eq_iff (by rw [List.length_drop]; omega), List.getElem?_drop, Nat.add_sub_cancel' habove]
      exact hb
    refine ⟨hother, fun hmatch => Bool.eq_true_of_not_eq_false fun hmatch' => hother ?_⟩
    rw [ckMismatch_eq_false_iff hk hck] at hmatch
    rw [ckMismatch_eq_false_iff hk' hck', hfld, hmatch] at hmatch'
    exact (congrArg Quad.b0 hmatch').symm

/-! ## The command classes (R195) -/

/-- What a valid direction shows (R163, R164). -/
theorem directionFields_cases {p : Params} {d c : Byte} {q : Quad} {isResp : Bool} {sel : FldSel} {shown : Quad}
    (h : directionFields p d c q = some (isResp, sel, shown)) :
    (d = Config.dirReq ∧ isResp = false ∧ sel = .checksum ∧ shown = q) ∨
    (d = Config.dirResp ∧ isResp = true ∧
      ((c = p.cmdReadReg ∧ sel = .value ∧ shown = q) ∨
        (c ≠ p.cmdReadReg ∧ sel = .placeholder ∧ shown = Config.placeholder))) := by
  unfold directionFields at h
  split at h
  next hreq =>
    cases h
    exact .inl ⟨hreq, rfl, rfl, rfl⟩
  next =>
    split at h
    next hresp =>
      split at h
      next hrr =>
        cases h
        exact .inr ⟨hresp, rfl, .inl ⟨hrr, rfl, rfl⟩⟩
      next hrr =>
        cases h
        exact .inr ⟨hresp, rfl, .inr ⟨hrr, rfl, rfl⟩⟩
    next => cases h

/-- Settles O56: the direction decides what is shown, `CKSUM_SET` and the length what is verified. -/
theorem commandClassesDecideFieldAndVerification : Obligations.CommandClassesDecideFieldAndVerification := by
  intro p u k hk
  have hverified : (k.cmd ∈ p.cksumSet → (k.ckChecked = true ↔ 16 ≤ k.plen)) ∧
      (k.cmd ∉ p.cksumSet → k.ckChecked = false) :=
    ⟨fun hset => (ckChecked_iff hk).trans (and_iff_right hset), ckChecked_of_notMem hk⟩
  obtain ⟨h, isResp, sel, shown, -, hdir, rfl⟩ := exists_header_of_decodePacket hk
  rcases directionFields_cases hdir with ⟨-, rfl, rfl, rfl⟩ | ⟨-, rfl, ⟨hrr, rfl, rfl⟩ | ⟨hrr, rfl, rfl⟩⟩
  · exact ⟨fun _ => ⟨rfl, rfl⟩, nofun, nofun, hverified⟩
  · exact ⟨nofun, fun _ _ => ⟨rfl, rfl⟩, fun _ hne => absurd hrr hne, hverified⟩
  · exact ⟨nofun, fun _ heq => absurd heq hrr, fun _ _ => ⟨rfl, rfl⟩, hverified⟩

/-- A request shows the received field, and a response other than the register-read command's the placeholder. -/
theorem directionFields_of_not_rr (p : Params) {d c : Byte} (q : Quad) (hd : d = 0x00 ∨ d = 0x01) (hrr : c ≠ p.cmdReadReg) :
    ∃ isResp sel shown, directionFields p d c q = some (isResp, sel, shown) ∧
      (d = 0x00 → isResp = false ∧ sel = .checksum ∧ shown = q) ∧
      (d = 0x01 → isResp = true ∧ sel = .placeholder ∧ shown = ⟨0x00, 0x00, 0x00, 0x00⟩) := by
  rcases hd with rfl | rfl
  · exact ⟨_, _, _, rfl, fun _ => ⟨rfl, rfl, rfl⟩, nofun⟩
  · exact ⟨_, _, _, if_neg hrr, nofun, fun _ => ⟨rfl, rfl, rfl⟩⟩

theorem mem_bodyErrors_packet_iff {e : ErrorClass} {k : Packet} : e ∈ bodyErrors (.packet k) ↔
    (k.lenMismatch = true ∧ e = .lengthMismatch) ∨ (k.ckMismatch = true ∧ e = .checksumMismatch) := by
  cases hlen : k.lenMismatch <;> cases hck : k.ckMismatch <;> simp [bodyErrors, hlen, hck]

/-- Settles O57: without any of the three attributes, the identifier is no reason to leave a part of the decode out. -/
theorem unknownCommandDecodesInFull : Obligations.UnknownCommandDecodesInFull := by
  intro dir c s0 s1 f0 f1 f2 f3 payload hc hd
  obtain ⟨hck, hrr, hknown⟩ := default_attributes_of_notMem hc
  have hskipped : c ∉ defaultParams.cksumSet := by simpa [commandCk] using hck
  obtain ⟨isResp, sel, shown, hdir, hreq, hresp⟩ :=
    directionFields_of_not_rr defaultParams ⟨f0, f1, f2, f3⟩ hd (by simpa [commandRr] using hrr)
  have hk := decodePacket_of_some (parseHeader_cons dir c s0 s1 f0 f1 f2 f3 payload) hdir
  have hunchecked := ckChecked_of_notMem hk hskipped
  obtain ⟨hmatch, hcalc⟩ := ck_of_not_checked hk hunchecked
  refine ⟨decodeCommand_of_notMem hc, _, hk, rfl, hknown, rfl, rfl, by rw [hunchecked, hmatch, hcalc], hreq, hresp, ?_⟩
  intro e he
  rcases mem_bodyErrors_packet_iff.1 he with ⟨-, hlen⟩ | ⟨hmismatch, -⟩
  · exact hlen
  · cases hmatch.symm.trans hmismatch

end Sys2Proof.Machine

namespace Sys2Proof.Safety

open Sys2Proof.Machine

/-! ## The command operations (R196 to R218) -/

/-- They are the rows of the opcode table, and the operation of all other identifiers. -/
theorem commandOperations_eq (u : Byte) : commandOperations u = commandRows.map Prod.swap ++ [(.cmdUnknown u, u)] := rfl

/-- Every command operation does what R195 gives its identifier, at any state. -/
theorem exec_of_mem_commandOperations {u c : Byte} {i : Instr} (h : (i, c) ∈ commandOperations u) (s : State) :
    exec i s = .next (applyCommand c s) := by
  rw [commandOperations_eq, List.mem_append, List.mem_map, List.mem_singleton] at h
  rcases h with ⟨⟨c', i'⟩, hrow, hswap⟩ | hunknown
  · cases hswap
    have hfits := fitsRow_of_mem_commandRows hrow
    rw [exec_eq_execPart hfits.admits (fun _ _ => rfl), execPart_of_fitsRow_cmd hfits]
  · cases hunknown
    rfl

/-- Settles O54: the operation writes what `checksum` gives where nothing is verified. -/
theorem commandWithoutVerification : Obligations.CommandWithoutVerification := by
  intro s u c i hi hskipped
  rw [exec_of_mem_commandOperations hi, applyCommand, checksum_skipped _ _ _ _ hskipped]
  rfl

/-- Settles O55: the operation writes what `checksum` gives where the checksum is verified. -/
theorem commandWithVerification : Obligations.CommandWithVerification := by
  intro s u c i hi hset hlen
  rw [exec_of_mem_commandOperations hi, applyCommand, checksum_verified _ _ _ _ hset hlen]
  rfl

end Sys2Proof.Safety
end

section
/-! SUPPORT. The host's line (44_rendering.md): what each part is in each case, which parts there are, and the source's
scenario from its bytes to its line. -/

namespace Sys2Proof.Machine

open Sys2Proof.Config (Params LinePart)

/-! ## The texts of the parts (R243, R245 to R247) -/

section
variable {p : Params} {k : Packet}

theorem nameText_of_commandName_eq_some {c : Byte} {name : String} (h : commandName p c = some name) :
    nameText p c = name := by
  rw [commandName] at h
  simp only [nameText, h]

theorem nameText_of_commandName_eq_none {c : Byte} (h : commandName p c = none) :
    nameText p c = "Unknown Command (" ++ byteText c ++ ")" := by
  rw [commandName] at h
  simp only [nameText, h]

theorem fieldText_of_checksum (h : k.fldSel = .checksum) : fieldText k = "checksum=" ++ quadText k.fldOut := by
  simp only [fieldText, h]

theorem fieldText_of_value (h : k.fldSel = .value) : fieldText k = "value=" ++ quadText k.fldOut := by
  simp only [fieldText, h]

theorem fieldText_of_placeholder (h : k.fldSel = .placeholder) : fieldText k = "value=0x00 0x00 0x00 0x00" := by
  simp only [fieldText, h]

/-! ## Which parts there are (R241, R248 to R250) -/

theorem checksumNote_of_mismatch (h : k.ckMismatch = true) : checksumNote k = Config.checksumAnnotation k.ckCalc :=
  if_pos h

theorem payloadParts_of_ne_nil (h : k.payload ≠ []) :
    payloadParts k = [(.payload, String.intercalate " " (k.payload.map payloadByteText))] :=
  if_neg (mt List.isEmpty_iff.1 h)

theorem lengthParts_of_mismatch (h : k.lenMismatch = true) :
    lengthParts k = [(.lengthNote, Config.lengthAnnotation)] := if_pos h

theorem length_payloadParts (k : Packet) : (payloadParts k).length = if k.payload = [] then 0 else 1 := by
  by_cases h : k.payload = []
  · rw [payloadParts_nil k h, if_pos h, List.length_nil]
  · rw [payloadParts_of_ne_nil h, if_neg h, List.length_singleton]

theorem length_lengthParts (k : Packet) : (lengthParts k).length = if k.lenMismatch then 1 else 0 := by
  cases h : k.lenMismatch with
  | false => rw [lengthParts_none k h, if_neg Bool.false_ne_true, List.length_nil]
  | true => rw [lengthParts_of_mismatch h, if_pos rfl, List.length_singleton]

theorem length_lineParts (p : Params) (k : Packet) :
    (lineParts p k).length = 4 + (if k.payload = [] then 0 else 1) + (if k.lenMismatch then 1 else 0) := by
  rw [lineParts, List.length_append, List.length_append, length_payloadParts, length_lengthParts]
  rfl

theorem lineParts_getElem?_four (h : k.payload ≠ []) :
    (lineParts p k)[4]? = some (.payload, String.intercalate " " (k.payload.map payloadByteText)) := by
  rw [lineParts, payloadParts_of_ne_nil h]
  rfl

theorem getLast?_lineParts (h : k.lenMismatch = true) :
    (lineParts p k).getLast? = some (.lengthNote, Config.lengthAnnotation) := by
  rw [lineParts, lengthParts_of_mismatch h, List.getLast?_concat]

/-- Without payload and annotations the line has its first four parts, and the fourth is the field description alone. -/
theorem lineParts_of_clean (hpayload : k.payload = []) (hlen : k.lenMismatch = false) (hck : k.ckMismatch = false) :
    lineParts p k = [(.packetType, Config.typeWord k.isResp), (.name, nameText p k.cmd), (.size, sizeText k.size),
      (.field, fieldText k)] := by
  rw [lineParts, payloadParts_nil k hpayload, lengthParts_none k hlen, checksumNote_none k hck, String.append_empty,
    List.append_nil, List.append_nil]

/-- The annotation is in the text of part 4, so the line has it directly after the field description (R248). -/
theorem recordLine_of_ckMismatch (p : Params) (h : k.ckMismatch = true) (tStart tEnd : Timestamp) :
    ∃ before after : String, recordLine p { tStart := tStart, tEnd := tEnd, body := .packet k } =
      before ++ (fieldText k ++ Config.checksumAnnotation k.ckCalc) ++ after := by
  rw [← checksumNote_of_mismatch h]
  obtain ⟨before, hline⟩ := joinParts_contains
    [(.packetType, Config.typeWord k.isResp), (.name, nameText p k.cmd), (.size, sizeText k.size)]
    .field (fieldText k ++ checksumNote k) (payloadParts k ++ lengthParts k) none
  exact ⟨before, _, hline⟩

end

/-- Settles O60: each clause is the rule of one part, and the bytes of the payload are all written in the same way. -/
theorem linePartsFollowTheRecord : Obligations.LinePartsFollowTheRecord :=
  ⟨⟨Config.payloadPrefixed, Config.payloadUpper, fun _ => rfl⟩, fun p k =>
    ⟨fun _ => nameText_of_commandName_eq_some, nameText_of_commandName_eq_none, fieldText_of_checksum,
      fieldText_of_value, fieldText_of_placeholder, rfl, lineParts_getElem?_four, length_lineParts p k,
      getLast?_lineParts, recordLine_of_ckMismatch p⟩⟩

end Sys2Proof.Machine

namespace Sys2Proof.Safety

open Sys2Proof.Machine

/-! ## The source's scenario (R252) -/

/-- The bytes as transactions, timed by their places in the stream, the first of them at `first`. -/
def timedFrom (tsS tsE : Nat → Timestamp) (first : Nat) (bytes : List Byte) : List (Byte × Timestamp × Timestamp) :=
  (bytes.zipIdx first).map fun x => (x.1, tsS x.2, tsE x.2)

theorem bytesOf_timedFrom (tsS tsE : Nat → Timestamp) (first : Nat) (bytes : List Byte) :
    bytesOf (timedFrom tsS tsE first bytes) = bytes := by
  rw [bytesOf, timedFrom, List.map_map]
  exact List.zipIdx_map_fst first bytes

/-- The header of the scenario's frame (R161): a SYNC request without payload. -/
def scenarioHeader : Header where
  dir := Config.dirReq
  cmd := Config.cmdSync
  size := 0
  fld := ⟨0xEF, 0x00, 0x00, 0x00⟩
  payload := []

/-- Its packet: the checksum of SYNC is not verified, and the declared size is that of no payload. -/
def scenarioPacket : Packet := headerPacket defaultParams scenarioHeader false .checksum scenarioHeader.fld

/-- The bytes between the scenario's two delimiters. -/
def scenarioBytes : List Byte := [0x00, 0x08, 0x00, 0x00, 0xEF, 0x00, 0x00, 0x00]

theorem decodePacket_scenarioBytes : decodePacket defaultParams (unescape scenarioBytes) = .packet scenarioPacket := by
  rw [unescape_eq_self (by decide)]
  exact decodePacket_of_some (h := scenarioHeader) rfl rfl

theorem recordsOf_scenario (tsS tsE : Nat → Timestamp) :
    recordsOf State.reset ([.feed Config.delim (tsS 0) (tsE 0)] ++
        (timedFrom tsS tsE 1 scenarioBytes).map transaction ++ [.feed Config.delim (tsS 9) (tsE 9)]) =
      some [{ tStart := tsS 0, tEnd := tsE 9, body := .packet scenarioPacket }] := by
  have hbytes := bytesOf_timedFrom tsS tsE 1 scenarioBytes
  obtain ⟨o, hframe⟩ := feeding_frame (s := State.reset) (ts := timedFrom tsS tsE 1 scenarioBytes) rfl rfl rfl
    (by rw [hbytes]; decide) (by rw [← length_bytesOf, hbytes]; decide) (tsS 0) (tsE 0) (tsS 9) (tsE 9)
  have hbody : decodePacket State.reset.params (unescape scenarioBytes) = .packet scenarioPacket :=
    decodePacket_scenarioBytes
  rw [hframe.recordsOf_eq, hbytes, hbody]

theorem lineParts_scenarioPacket : lineParts defaultParams scenarioPacket =
    [(.packetType, Config.typeWord false), (.name, "SYNC"), (.size, "data_size=0"),
     (.field, "checksum=0xEF 0x00 0x00 0x00")] := by
  have hname : nameText defaultParams scenarioPacket.cmd = "SYNC" := nameText_of_commandName_eq_some (by decide)
  have hsize : sizeText scenarioPacket.size = "data_size=0" := by decide
  have hfield : fieldText scenarioPacket = "checksum=0xEF 0x00 0x00 0x00" := by
    rw [fieldText_of_checksum rfl]
    decide
  rw [lineParts_of_clean rfl rfl rfl, hname, hsize, hfield]
  rfl

/-- Settles O59: the stream is one frame between two delimiters, and the line of its packet has four parts. -/
theorem scenarioLineNamesSync : Obligations.ScenarioLineNamesSync := fun tsS tsE =>
  ⟨scenarioPacket, recordsOf_scenario tsS tsE, rfl, rfl, rfl, rfl, lineParts_scenarioPacket⟩

end Sys2Proof.Safety
end

section
/-! SUPPORT. Errors and stops (60_exceptions.md): the one way in which a step does not go on, the close's state change, and the
order of the error tests (R267, R270, R271). -/

namespace Sys2Proof.Machine

open Sys2Proof.Safety

/-! ## The one refusal (R124, R271) -/

/-- No operation faults, and `FR.APPEND` without room is the only one that is refused. -/
theorem exec_next_or_refuses (i : Instr) (s : State) :
    (∃ t, exec i s = .next t) ∨ exec i s = .refused .bufferFull ∧ hasRoom s = false ∧ ∃ b, i = .frAppend b := by
  obtain ⟨t, hpart, -⟩ := execPart_next i s
  cases i with
  | frOpen | frCloseDiscard | frIgnore => exact .inl ⟨_, rfl⟩
  | frCloseEmit tsE => exact .inl ⟨_, execFrCloseEmit_eq tsE s⟩
  | frAppend b =>
    cases hroom : hasRoom s with
    | true => exact .inl ⟨_, exec_frAppend_of_hasRoom hroom⟩
    | false => exact .inr ⟨exec_frAppend_of_full hroom, rfl, b, rfl⟩
  | _ => exact .inl ⟨t, hpart⟩

theorem streamByte_of_decode_eq_frAppend {c : Context} {b x : Byte} (h : decode c b = .frAppend x) :
    b ≠ Config.delim ∧ ∃ len tsS tsE, c = .sb .inFrame len tsS tsE := by
  obtain ⟨hwf, hadm, hbyte⟩ := h ▸ decode_fitsRow c b
  obtain ⟨len, tsS, tsE, rfl, -⟩ := isStream_iff.1 hadm
  obtain rfl : x = b := hbyte
  exact ⟨bne_iff_ne.1 hwf, len, tsS, tsE, rfl⟩

/-- A stream byte is fetched at rest only, as the host's next transaction in the framer's own state. -/
theorem rest_of_fetch_eq_sb {s : State} {st : FramerState} {len : Nat} {tsS tsE : Timestamp} {b : Byte}
    (h : fetch s = .operation (.sb st len tsS tsE) b) :
    s.work.phase = .rest ∧ s.st = st ∧ ∃ rest, s.input = .feed b tsS tsE :: rest := by
  cases hp : s.work.phase with
  | rest =>
    match hi : s.input with
    | [] => cases (fetch_waiting s hp hi).symm.trans h
    | .reset :: rest => cases (fetch_reset s rest hp hi).symm.trans h
    | .feed b' tsS' tsE' :: rest =>
      cases (fetch_feed s b' tsS' tsE' rest hp hi).symm.trans h
      exact ⟨rfl, rfl, rest, rfl⟩
  | scan =>
    cases hx : readByte s.buf s.work.pos with
    | none => cases (fetch_scanEnd hp hx).symm.trans h
    | some x => cases (fetch_scan hp hx).symm.trans h
  | dir => cases (fetch_dir hp).symm.trans h
  | cmd => cases (fetch_cmd hp).symm.trans h
  | done => cases (fetch_done hp).symm.trans h

@[simp] theorem hasRoom_beforeExec (s : State) : hasRoom (beforeExec s) = hasRoom s := by
  unfold beforeExec
  split <;> rfl

/-- The next step appends a byte to a buffer that has no room for it. -/
structure MeetsFullBuffer (s : State) : Prop where
  phase : s.work.phase = .rest
  byteFed : ∃ b tsS tsE rest, s.input = .feed b tsS tsE :: rest ∧ b ≠ Config.delim
  inFrame : s.st = .inFrame
  noRoom : hasRoom s = false

theorem meetsFullBuffer_of_fetch {s : State} {c : Context} {b x : Byte} (hf : fetch s = .operation c b)
    (hd : decode c b = .frAppend x) (hroom : hasRoom s = false) : MeetsFullBuffer s := by
  obtain ⟨hb, len, tsS, tsE, rfl⟩ := streamByte_of_decode_eq_frAppend hd
  obtain ⟨hp, hst, rest, hi⟩ := rest_of_fetch_eq_sb hf
  exact ⟨hp, ⟨b, tsS, tsE, rest, hi, hb⟩, hst, hroom⟩

/-- Progress: every step goes on, but for the append to a full buffer. -/
theorem step_next_or_refuses (s : State) :
    (∃ t, step s = .next t) ∨ step s = .refused .bufferFull ∧ MeetsFullBuffer s := by
  cases hf : fetch s with
  | waiting | resetNext | scanEnd | frameEnd => exact .inl ⟨_, by simp only [step, hf]; rfl⟩
  | operation c b =>
    rw [step_of_operation hf]
    rcases exec_next_or_refuses (decode c b) (beforeExec s) with hnext | ⟨hrefused, hroom, x, hd⟩
    · exact .inl hnext
    · exact .inr ⟨hrefused, meetsFullBuffer_of_fetch hf hd ((hasRoom_beforeExec s).symm.trans hroom)⟩

/-- Settles O23: the only stop is a full buffer, which an unbounded one never is. -/
theorem onlyAFullBufferStopsTheBlock : Obligations.OnlyAFullBufferStopsTheBlock := by
  refine ⟨fun s hcap => ?progress, fun s r hs => ?refusal, fun s f hs => nomatch f⟩
  case progress =>
    rcases step_next_or_refuses s with hnext | ⟨-, hfull⟩
    · exact hnext
    · cases hfull.noRoom.symm.trans (hasRoom_of_unbounded hcap)
  case refusal =>
    rcases step_next_or_refuses s with ⟨t, hnext⟩ | ⟨hrefused, hfull⟩
    · cases hnext.symm.trans hs
    · cases hrefused.symm.trans hs
      exact ⟨rfl, hfull.phase, hfull.byteFed, hfull.inFrame, hasRoom_eq_false_iff.1 hfull.noRoom⟩

/-! ## The close (R270) -/

/-- Settles O27: the two closes differ in what they emit. -/
theorem everyCloseLeavesTheSameState : Obligations.EveryCloseLeavesTheSameState := by
  intro s tsS tsE rest hrest hst hi
  rcases Nat.lt_or_ge s.buf.length Config.minRaw with hlen | hlen
  · exact ⟨none, step_discards hrest hst hlen hi⟩
  · exact ⟨some (closeRecord tsE s), step_emits hrest hst hlen hi⟩

/-! ## The order of the error tests (R267) -/

section
variable {p : Config.Params} {buf : List Byte}

theorem closeErrors_of_lt (h : buf.length < Config.minRaw) : closeErrors p buf = [.incompleteFrame] := if_pos h

theorem closeErrors_of_le (h : Config.minRaw ≤ buf.length) :
    closeErrors p buf = bodyErrors (decodePacket p (unescape buf)) := if_neg (Nat.not_lt.2 h)

theorem decodePacket_of_invalidDirection {d : Byte} {tail : List Byte} (hlen : 7 ≤ tail.length)
    (hreq : d ≠ Config.dirReq) (hresp : d ≠ Config.dirResp) : decodePacket p (d :: tail) = .badDirection := by
  rcases header_or_short (d :: tail) with hshort | ⟨_, c, s0, s1, f0, f1, f2, f3, payload, hu⟩
  · exact absurd hshort (Nat.not_lt.2 (Nat.succ_le_succ hlen))
  · cases hu
    exact decodePacket_of_none (directionFields_of_ne hreq hresp)

theorem bodyErrors_packet_sublist (k : Packet) :
    (bodyErrors (.packet k)).Sublist [.lengthMismatch, .checksumMismatch] := by
  have hflag (flag : Bool) (e : ErrorClass) : (if flag then [e] else []).Sublist [e] := by cases flag <;> simp
  exact (hflag k.lenMismatch .lengthMismatch).append (hflag k.ckMismatch .checksumMismatch)

/-- One fatal class alone, or any of the two that are not fatal. -/
theorem closeErrors_cases (p : Config.Params) (buf : List Byte) :
    (∃ e, e.fatal = true ∧ closeErrors p buf = [e]) ∨
    (closeErrors p buf).Sublist [.lengthMismatch, .checksumMismatch] := by
  rcases Nat.lt_or_ge buf.length Config.minRaw with hlen | hlen
  · exact .inl ⟨.incompleteFrame, rfl, closeErrors_of_lt hlen⟩
  · rw [closeErrors_of_le hlen]
    cases decodePacket p (unescape buf) with
    | packet k => exact .inr (bodyErrors_packet_sublist k)
    | badDirection => exact .inl ⟨.badDirection, rfl, rfl⟩
    | decodeFault => exact .inl ⟨.decodeFault, rfl, rfl⟩

theorem closeErrors_eq_singleton_of_fatal {e : ErrorClass} (he : e ∈ closeErrors p buf) (hfatal : e.fatal = true) :
    closeErrors p buf = [e] := by
  rcases closeErrors_cases p buf with ⟨e', -, heq⟩ | hsub
  · rw [heq, List.mem_singleton] at he
    rw [heq, he]
  · rcases List.mem_pair.1 (hsub.subset he) with rfl | rfl
    · cases hfatal
    · cases hfatal

theorem closeErrors_sublist_of_not_fatal (h : ∀ e ∈ closeErrors p buf, e.fatal = false) :
    (closeErrors p buf).Sublist [.lengthMismatch, .checksumMismatch] := by
  rcases closeErrors_cases p buf with ⟨e, hfatal, heq⟩ | hsub
  · cases hfatal.symm.trans (h e (by simp [heq]))
  · exact hsub

/-- The record of a close tells of the close's error classes. -/
theorem bodyErrors_of_exec_frCloseEmit {tsE : Timestamp} {s t : State} (hlen : Config.minRaw ≤ s.buf.length)
    (h : exec (.frCloseEmit tsE) s = .next t) :
    t.out.map (fun r => bodyErrors r.body) = some (closeErrors s.params s.buf) := by
  cases (execFrCloseEmit_eq tsE s).symm.trans h
  exact congrArg some (closeErrors_of_le hlen).symm

end

/-- Settles O58: the tests of a close are those of `LEN` and then of `decode`, whose outcome is one of three. -/
theorem errorsAreTestedInOrder : Obligations.ErrorsAreTestedInOrder := by
  refine ⟨fun p buf => ⟨closeErrors_of_lt, fun hlen hshort => ?fault, fun hlen d tail hu htail hreq hresp => ?direction,
    fun hlen k hk => ?packet, fun _ => closeErrors_eq_singleton_of_fatal, closeErrors_sublist_of_not_fatal⟩,
    fun _ _ _ => bodyErrors_of_exec_frCloseEmit⟩
  case fault =>
    rw [closeErrors_of_le hlen, decodePacket_of_short hshort]
    rfl
  case direction =>
    rw [closeErrors_of_le hlen, hu, decodePacket_of_invalidDirection htail hreq hresp]
    rfl
  case packet =>
    rw [closeErrors_of_le hlen, hk]
    simp [mem_bodyErrors_packet_iff]

end Sys2Proof.Machine
end

section
/-! SUPPORT. Reset between frames, the delimiter that puts the block out of step, and what a sender's own bytes can lose
(70_reset_and_hazards.md R301, R305, R307, R308). -/

namespace Sys2Proof.Machine

open Sys2Proof.Config (Params)

/-! ## Losses inside escapes (R143, R146, R308) -/

/-- A marker with a byte that completes no escape is lost, and the scan goes on after the two as from the start (R143). -/
theorem unescape_invalidEscape_append {x : Byte} (hend : x ≠ Config.escEnd) (hesc : x ≠ Config.escEsc) (z : List Byte) :
    unescape ([Config.esc, x] ++ z) = unescape z := unescapeFrom_true_of_ne z hend hesc

/-- Settles O39: the sender's bytes leave no escape pending, and what follows them is unescaped by itself. -/
theorem lossInsideEscapesIsSilent : Obligations.LossInsideEscapesIsSilent := by
  refine fun y => ⟨?marker, fun x hend hesc => ?pair, fun x z hend hesc => ?between⟩
  case marker =>
    rw [unescape_escape_append]
    exact List.append_nil y
  case pair =>
    have hlost : unescape [Config.esc, x] = [] := unescape_invalidEscape_append hend hesc []
    rw [unescape_escape_append, hlost, List.append_nil]
  case between =>
    rw [List.append_assoc, unescape_escape_append, unescape_invalidEscape_append hend hesc, unescape_escape]

/-! ## A well-formed packet (R94, R96, R307) -/

/-- Escaping never shortens, since unescaping, which undoes it, never lengthens (R147). -/
theorem length_le_length_escape (x : List Byte) : x.length ≤ (escape x).length := by
  obtain ⟨hlengths, -⟩ := unescapeLength
  obtain ⟨-, hle, -⟩ := hlengths (escape x)
  rwa [unescape_escape] at hle

theorem length_packetBytes (dir cmd : Byte) (fld : Quad) (payload : List Byte) :
    (packetBytes dir cmd fld payload).length = payload.length + 8 := rfl

/-- The two size bytes of a sender's packet are the low 16 bits of the payload's length (R86, R94). -/
theorem ofNat_sizeBytes (n : Nat) :
    BitVec.ofNat 16 ((BitVec.ofNat 8 n).toNat + 256 * (BitVec.ofNat 8 (n / 256)).toNat) = BitVec.ofNat 16 n := by
  apply BitVec.eq_of_toNat_eq
  simp only [BitVec.toNat_ofNat]
  omega

/-- The validator's header of a sender's packet is what the sender put there. -/
theorem parseHeader_packetBytes (dir cmd : Byte) (fld : Quad) (payload : List Byte) :
    parseHeader (packetBytes dir cmd fld payload) =
      some { dir := dir, cmd := cmd, size := BitVec.ofNat 16 payload.length, fld := fld, payload := payload } := by
  rw [← ofNat_sizeBytes]
  exact parseHeader_cons dir cmd _ _ fld.b0 fld.b1 fld.b2 fld.b3 payload

theorem directionFields_of_valid (p : Params) {d : Byte} (c : Byte) (q : Quad) (hd : d = 0x00 ∨ d = 0x01) :
    ∃ sel shown, directionFields p d c q = some (decide (d = 0x01), sel, shown) := by
  rcases hd with rfl | rfl
  · exact ⟨_, _, rfl⟩
  · by_cases hrr : c = p.cmdReadReg
    · exact ⟨_, _, if_pos hrr⟩
    · exact ⟨_, _, if_neg hrr⟩

/-- Settles O40: the header alone has the 8 bytes, and up to 65535 the declared size is the payload's length. -/
theorem wellFormedPacketIsNeverDropped : Obligations.WellFormedPacketIsNeverDropped := by
  intro p dir cmd fld payload hdir hlen
  have hlong := length_le_length_escape (packetBytes dir cmd fld payload)
  rw [length_packetBytes] at hlong
  have hsize : (BitVec.ofNat 16 payload.length).toNat = payload.length := by
    rw [BitVec.toNat_ofNat, Nat.mod_eq_of_lt (by omega)]
  have hclean : lengthMismatch (BitVec.ofNat 16 payload.length) payload.length = false :=
    Bool.eq_false_iff.2 fun h => (lengthMismatch_iff _ _).1 h hsize.symm
  obtain ⟨sel, shown, hfields⟩ := directionFields_of_valid p cmd fld hdir
  rw [unescape_escape]
  exact ⟨by omega, _, decodePacket_of_some (parseHeader_packetBytes dir cmd fld payload) hfields, rfl, rfl, hsize, rfl, rfl,
    hclean⟩

end Sys2Proof.Machine

namespace Sys2Proof.Safety

open Sys2Proof.Machine

/-! ## Reset (R300 to R302) -/

/-- Settles O2: of the state before, the reset event reads the parameters and the input still to come. -/
theorem resetEventDiscardsOpenFrame : Obligations.ResetEventDiscardsOpenFrame := by
  intro s rest hrest hi
  have hevent : resetEvent (popEvent s) = { State.resetWith s.params with input := rest } := by
    simp only [resetEvent, popEvent_params, popEvent_input, hi, List.tail_cons]
  simp only [step, fetch_reset s rest (phase_of_atRest hrest) hi, hevent]

/-! ## Out of step (R305) -/

section
variable {s : State}

/-- A bracketed frame that finds a short frame open: its first delimiter closes that one without a record, its bytes are
ignored, and its last delimiter opens a new frame. -/
theorem feeding_bracketed_outOfStep (hrest : AtRest s) (hst : s.st = .inFrame) (hlen : s.buf.length < Config.minRaw)
    {f : Bracketed} (hf : Config.delim ∉ bytesOf f.bytes) :
    Feeding s f.events [] { s with st := .inFrame, ts0 := f.closing.1, buf := [], out := none } := by
  have hclose := feeding_discards hrest hst hlen f.opening.1 f.opening.2
  obtain ⟨o, hignored⟩ := feeding_ignores (s := { s with st := .idle, buf := [], out := none }) hrest rfl hf
  have hopen := feeding_opens (s := { s with st := .idle, buf := [], out := o }) hrest rfl f.closing.1 f.closing.2
  exact (hclose.append hignored).append hopen

/-- An open, empty frame: each bracketed frame leaves the block in such a state again. -/
theorem feeding_bracketedFrames_outOfStep {frames : List Bracketed} (hrest : AtRest s) (hst : s.st = .inFrame)
    (hbuf : s.buf = []) (hframes : ∀ f ∈ frames, Config.delim ∉ bytesOf f.bytes) :
    ∃ t, Feeding s (frames.flatMap Bracketed.events) [] t ∧ t.st = .inFrame ∧ t.buf = [] := by
  induction frames generalizing s with
  | nil => exact ⟨s, .nil s, hst, hbuf⟩
  | cons f frames ih =>
    obtain ⟨hf, hframes⟩ := List.forall_mem_cons.1 hframes
    have hlen : s.buf.length < Config.minRaw := by rw [hbuf]; decide
    have hfirst := feeding_bracketed_outOfStep hrest hst hlen hf
    obtain ⟨t, hothers, ht⟩ :=
      ih (s := { s with st := .inFrame, ts0 := f.closing.1, buf := [], out := none }) hrest rfl rfl hframes
    exact ⟨t, hfirst.append hothers, ht⟩

end

/-- Settles O19: the stray delimiter opens an empty frame, and no bracketed frame brings the block back into step. -/
theorem strayDelimiterLosesEveryFrame : Obligations.StrayDelimiterLosesEveryFrame := by
  intro s tsS tsE frames hrest hst hframes
  have hstray := feeding_opens hrest hst tsS tsE
  obtain ⟨t, hlost, ht⟩ := feeding_bracketedFrames_outOfStep
    (s := { s with st := .inFrame, ts0 := tsS, buf := [], out := none }) hrest rfl rfl hframes
  exact ⟨_, (hstray.append hlost).drain_eq, ht⟩

end Sys2Proof.Safety
end
